-- ==== Sys2Proof/Word.lean ====
section
/-! DEFINITION. The words of the machine: bytes, 16-bit words, instruction nibbles, register and key
numbers, durations. -/

namespace Sys2Proof

/-- One memory location, one general register, one timer counter (rules R21, R26, R60). -/
abbrev Byte := BitVec 8

/-- The width of an instruction word, of `I`, of `pc` and of a call-stack entry (rules R10, R23, R24, R29). -/
abbrev Word := BitVec 16

/-- A four-bit field of an instruction word (rule R10). -/
abbrev Nibble := BitVec 4

/-- A general register number, 0 to 15 (rule R21). -/
abbrev RegNum := Fin 16

/-- A key of the keypad, 0 to 15 (rule R33). -/
abbrev Key := Fin 16

/-- A duration in time-units: an exact rational number (rule R35, decision D15, log entry 11).
The host's duty `delta ≥ 0` (rule R258) is a check of WellFormed.lean. -/
abbrev Duration := Rat

/-- Register VF, number 15 (rule R22). -/
def vF : RegNum := 15

end Sys2Proof
end

