-- ==== Sys2Proof/Syntax.lean ====
section
/-! DEFINITION. The instructions: one constructor for each of the 34 rows of rule R96. -/

namespace Sys2Proof

/-- The 34 instructions of rule R96. `x`, `y` are the fields X and Y, `nn` is NN, `nnn` is NNN and `n`
is N (rule R92). Every value of these types is an operand the encoding admits, and the encoding admits
no other. -/
inductive Instr where
  /-- 00E0 `CLS` -/
  | cls
  /-- 00EE `RET` -/
  | ret
  /-- 1NNN `JP addr` -/
  | jpAddr (nnn : BitVec 12)
  /-- 2NNN `CALL addr` -/
  | callAddr (nnn : BitVec 12)
  /-- 3XNN `SE Vx, byte` -/
  | seVxByte (x : RegNum) (nn : Byte)
  /-- 4XNN `SNE Vx, byte` -/
  | sneVxByte (x : RegNum) (nn : Byte)
  /-- 5XY0 `SE Vx, Vy` -/
  | seVxVy (x y : RegNum)
  /-- 6XNN `LD Vx, byte` -/
  | ldVxByte (x : RegNum) (nn : Byte)
  /-- 7XNN `ADD Vx, byte` -/
  | addVxByte (x : RegNum) (nn : Byte)
  /-- 8XY0 `LD Vx, Vy` -/
  | ldVxVy (x y : RegNum)
  /-- 8XY1 `OR Vx, Vy` -/
  | orVxVy (x y : RegNum)
  /-- 8XY2 `AND Vx, Vy` -/
  | andVxVy (x y : RegNum)
  /-- 8XY3 `XOR Vx, Vy` -/
  | xorVxVy (x y : RegNum)
  /-- 8XY4 `ADD Vx, Vy` -/
  | addVxVy (x y : RegNum)
  /-- 8XY5 `SUB Vx, Vy` -/
  | subVxVy (x y : RegNum)
  /-- 8XY6 `SHR Vx, Vy` -/
  | shrVxVy (x y : RegNum)
  /-- 8XY7 `SUBN Vx, Vy` -/
  | subnVxVy (x y : RegNum)
  /-- 8XYE `SHL Vx, Vy` -/
  | shlVxVy (x y : RegNum)
  /-- 9XY0 `SNE Vx, Vy` -/
  | sneVxVy (x y : RegNum)
  /-- ANNN `LD I, addr` -/
  | ldIAddr (nnn : BitVec 12)
  /-- BNNN `JP V0, addr` -/
  | jpV0Addr (nnn : BitVec 12)
  /-- CXNN `RND Vx, byte` -/
  | rndVxByte (x : RegNum) (nn : Byte)
  /-- DXYN `DRW Vx, Vy, nibble` -/
  | drwVxVyNibble (x y : RegNum) (n : Nibble)
  /-- EX9E `SKP Vx` -/
  | skpVx (x : RegNum)
  /-- EXA1 `SKNP Vx` -/
  | sknpVx (x : RegNum)
  /-- FX07 `LD Vx, DT` -/
  | ldVxDT (x : RegNum)
  /-- FX0A `LD Vx, K` -/
  | ldVxK (x : RegNum)
  /-- FX15 `LD DT, Vx` -/
  | ldDTVx (x : RegNum)
  /-- FX18 `LD ST, Vx` -/
  | ldSTVx (x : RegNum)
  /-- FX1E `ADD I, Vx` -/
  | addIVx (x : RegNum)
  /-- FX29 `LD F, Vx` -/
  | ldFVx (x : RegNum)
  /-- FX33 `LD B, Vx` -/
  | ldBVx (x : RegNum)
  /-- FX55 `LD [I], Vx` -/
  | ldMemVx (x : RegNum)
  /-- FX65 `LD Vx, [I]` -/
  | ldVxMem (x : RegNum)
deriving DecidableEq, Repr

end Sys2Proof
end

