-- ==== Sys2Proof/Decode.lean ====
section
/-! DEFINITION. The opcode table of rule R96, the decoder (rules R92, R94, R97), and the encoder written
from the same table. -/

namespace Sys2Proof

/-! ## Fields of an instruction word (rules R10, R92) -/

/-- `n0 = w[15:12]`. -/
def n0 (w : Word) : Nibble := w.extractLsb' 12 4

/-- `n1 = w[11:8]`. -/
def n1 (w : Word) : Nibble := w.extractLsb' 8 4

/-- `n2 = w[7:4]`. -/
def n2 (w : Word) : Nibble := w.extractLsb' 4 4

/-- `n3 = w[3:0]`. -/
def n3 (w : Word) : Nibble := w.extractLsb' 0 4

/-- `X = w[11:8]`. -/
def fieldX (w : Word) : RegNum := (n1 w).toFin

/-- `Y = w[7:4]`. -/
def fieldY (w : Word) : RegNum := (n2 w).toFin

/-- `NN = w[7:0]`. -/
def fieldNN (w : Word) : Byte := w.extractLsb' 0 8

/-- `NNN = w[11:0]`. -/
def fieldNNN (w : Word) : BitVec 12 := w.extractLsb' 0 12

/-- The word of two fetched bytes, the first the more significant: `w = (b0 << 8) | b1` (rules R10, R62). -/
def wordOfBytes (b0 b1 : Byte) : Word := b0 ++ b1

/-- The first (more significant) byte of a word as memory holds it (rule R62). -/
def highByte (w : Word) : Byte := w.extractLsb' 8 8

/-- The second byte of a word as memory holds it (rule R62). -/
def lowByte (w : Word) : Byte := w.extractLsb' 0 8

/-! ## The decoder -/

/-- Family 0x0, dispatched on all of `n1 n2 n3` (rule R94). -/
def decode0 (w : Word) : Option Instr :=
  if w = 0x00E0 then some .cls
  else if w = 0x00EE then some .ret
  else none

/-- Family 0x8, dispatched on `n3` (rule R94). -/
def decode8 (w : Word) : Option Instr :=
  let x := fieldX w
  let y := fieldY w
  match (n3 w).toNat with
  | 0x0 => some (.ldVxVy x y)
  | 0x1 => some (.orVxVy x y)
  | 0x2 => some (.andVxVy x y)
  | 0x3 => some (.xorVxVy x y)
  | 0x4 => some (.addVxVy x y)
  | 0x5 => some (.subVxVy x y)
  | 0x6 => some (.shrVxVy x y)
  | 0x7 => some (.subnVxVy x y)
  | 0xE => some (.shlVxVy x y)
  | _ => none

/-- Family 0xE, dispatched on the low byte (rule R94). -/
def decodeE (w : Word) : Option Instr :=
  let x := fieldX w
  match (fieldNN w).toNat with
  | 0x9E => some (.skpVx x)
  | 0xA1 => some (.sknpVx x)
  | _ => none

/-- Family 0xF, dispatched on the low byte (rule R94). -/
def decodeF (w : Word) : Option Instr :=
  let x := fieldX w
  match (fieldNN w).toNat with
  | 0x07 => some (.ldVxDT x)
  | 0x0A => some (.ldVxK x)
  | 0x15 => some (.ldDTVx x)
  | 0x18 => some (.ldSTVx x)
  | 0x1E => some (.addIVx x)
  | 0x29 => some (.ldFVx x)
  | 0x33 => some (.ldBVx x)
  | 0x55 => some (.ldMemVx x)
  | 0x65 => some (.ldVxMem x)
  | _ => none

/-- The instruction of a 16-bit word, or none where the word matches no row of rule R96 and is an
illegal encoding (rule R97). Dispatch is on `n0`, then within the family (rule R94). -/
def decode (w : Word) : Option Instr :=
  match (n0 w).toNat with
  | 0x0 => decode0 w
  | 0x1 => some (.jpAddr (fieldNNN w))
  | 0x2 => some (.callAddr (fieldNNN w))
  | 0x3 => some (.seVxByte (fieldX w) (fieldNN w))
  | 0x4 => some (.sneVxByte (fieldX w) (fieldNN w))
  | 0x5 => if n3 w = 0 then some (.seVxVy (fieldX w) (fieldY w)) else none
  | 0x6 => some (.ldVxByte (fieldX w) (fieldNN w))
  | 0x7 => some (.addVxByte (fieldX w) (fieldNN w))
  | 0x8 => decode8 w
  | 0x9 => if n3 w = 0 then some (.sneVxVy (fieldX w) (fieldY w)) else none
  | 0xA => some (.ldIAddr (fieldNNN w))
  | 0xB => some (.jpV0Addr (fieldNNN w))
  | 0xC => some (.rndVxByte (fieldX w) (fieldNN w))
  | 0xD => some (.drwVxVyNibble (fieldX w) (fieldY w) (n3 w))
  | 0xE => decodeE w
  | 0xF => decodeF w
  | _ => none

/-- What the decoder answers for bytes at a fetch address: an instruction and the bytes after it; or,
by name, an illegal word with its four nibbles (rules R97, R127); or fewer than the two bytes every
instruction has (rule R90). -/
inductive Decoded where
  | instr (i : Instr) (rest : List Byte)
  | illegal (n0 n1 n2 n3 : Nibble)
  | truncated
deriving DecidableEq, Repr

/-- Decoding of any bytes: two bytes make one instruction word (rule R90). -/
def decodeBytes : List Byte → Decoded
  | b0 :: b1 :: rest =>
    match decode (wordOfBytes b0 b1) with
    | some i => .instr i rest
    | none =>
      let w := wordOfBytes b0 b1
      .illegal (n0 w) (n1 w) (n2 w) (n3 w)
  | [_] => .truncated
  | [] => .truncated

/-- The instruction this decoder reads from the bytes of a word numbered as spec/opcode_table.json
numbers its bits. -/
def decodeTableWord (nbits w : Nat) : Option Instr :=
  let word : Word := BitVec.ofNat 16 (w % 2 ^ nbits)
  match decodeBytes [highByte word, lowByte word] with
  | .instr i _ => some i
  | .illegal _ _ _ _ => none
  | .truncated => none

/-! ## The encoder -/

/-- Format A of rule R91: opcode, NNN. -/
def formatA (op : Nibble) (nnn : BitVec 12) : Word := op ++ nnn

/-- Format XB of rule R91: opcode, X, NN. The format XF is the same with a function byte for NN. -/
def formatXB (op : Nibble) (x : RegNum) (nn : Byte) : Word := op ++ (BitVec.ofFin x : Nibble) ++ nn

/-- Format XYN of rule R91: opcode, X, Y, N. The format XYF is the same with a function nibble for N. -/
def formatXYN (op : Nibble) (x y : RegNum) (n : Nibble) : Word :=
  op ++ (BitVec.ofFin x : Nibble) ++ (BitVec.ofFin y : Nibble) ++ n

/-- The word of an instruction (rules R91, R92, R96). -/
def encode : Instr → Word
  | .cls => 0x00E0
  | .ret => 0x00EE
  | .jpAddr nnn => formatA 0x1 nnn
  | .callAddr nnn => formatA 0x2 nnn
  | .seVxByte x nn => formatXB 0x3 x nn
  | .sneVxByte x nn => formatXB 0x4 x nn
  | .seVxVy x y => formatXYN 0x5 x y 0x0
  | .ldVxByte x nn => formatXB 0x6 x nn
  | .addVxByte x nn => formatXB 0x7 x nn
  | .ldVxVy x y => formatXYN 0x8 x y 0x0
  | .orVxVy x y => formatXYN 0x8 x y 0x1
  | .andVxVy x y => formatXYN 0x8 x y 0x2
  | .xorVxVy x y => formatXYN 0x8 x y 0x3
  | .addVxVy x y => formatXYN 0x8 x y 0x4
  | .subVxVy x y => formatXYN 0x8 x y 0x5
  | .shrVxVy x y => formatXYN 0x8 x y 0x6
  | .subnVxVy x y => formatXYN 0x8 x y 0x7
  | .shlVxVy x y => formatXYN 0x8 x y 0xE
  | .sneVxVy x y => formatXYN 0x9 x y 0x0
  | .ldIAddr nnn => formatA 0xA nnn
  | .jpV0Addr nnn => formatA 0xB nnn
  | .rndVxByte x nn => formatXB 0xC x nn
  | .drwVxVyNibble x y n => formatXYN 0xD x y n
  | .skpVx x => formatXB 0xE x 0x9E
  | .sknpVx x => formatXB 0xE x 0xA1
  | .ldVxDT x => formatXB 0xF x 0x07
  | .ldVxK x => formatXB 0xF x 0x0A
  | .ldDTVx x => formatXB 0xF x 0x15
  | .ldSTVx x => formatXB 0xF x 0x18
  | .addIVx x => formatXB 0xF x 0x1E
  | .ldFVx x => formatXB 0xF x 0x29
  | .ldBVx x => formatXB 0xF x 0x33
  | .ldMemVx x => formatXB 0xF x 0x55
  | .ldVxMem x => formatXB 0xF x 0x65

/-- The two bytes of an instruction as memory holds them (rules R62, R90). -/
def encodeBytes (i : Instr) : List Byte := [highByte (encode i), lowByte (encode i)]

/-! ## The opcode table -/

/-- A row's mask and match: a word `w` is the row's instruction exactly when `w & mask = match`
(rule R96). -/
structure Row where
  mask : Word
  value : Word
deriving DecidableEq, Repr

/-- Mask and match of an instruction's row of rule R96. -/
def Instr.row : Instr → Row
  | .cls => ⟨0xFFFF, 0x00E0⟩
  | .ret => ⟨0xFFFF, 0x00EE⟩
  | .jpAddr _ => ⟨0xF000, 0x1000⟩
  | .callAddr _ => ⟨0xF000, 0x2000⟩
  | .seVxByte _ _ => ⟨0xF000, 0x3000⟩
  | .sneVxByte _ _ => ⟨0xF000, 0x4000⟩
  | .seVxVy _ _ => ⟨0xF00F, 0x5000⟩
  | .ldVxByte _ _ => ⟨0xF000, 0x6000⟩
  | .addVxByte _ _ => ⟨0xF000, 0x7000⟩
  | .ldVxVy _ _ => ⟨0xF00F, 0x8000⟩
  | .orVxVy _ _ => ⟨0xF00F, 0x8001⟩
  | .andVxVy _ _ => ⟨0xF00F, 0x8002⟩
  | .xorVxVy _ _ => ⟨0xF00F, 0x8003⟩
  | .addVxVy _ _ => ⟨0xF00F, 0x8004⟩
  | .subVxVy _ _ => ⟨0xF00F, 0x8005⟩
  | .shrVxVy _ _ => ⟨0xF00F, 0x8006⟩
  | .subnVxVy _ _ => ⟨0xF00F, 0x8007⟩
  | .shlVxVy _ _ => ⟨0xF00F, 0x800E⟩
  | .sneVxVy _ _ => ⟨0xF00F, 0x9000⟩
  | .ldIAddr _ => ⟨0xF000, 0xA000⟩
  | .jpV0Addr _ => ⟨0xF000, 0xB000⟩
  | .rndVxByte _ _ => ⟨0xF000, 0xC000⟩
  | .drwVxVyNibble _ _ _ => ⟨0xF000, 0xD000⟩
  | .skpVx _ => ⟨0xF0FF, 0xE09E⟩
  | .sknpVx _ => ⟨0xF0FF, 0xE0A1⟩
  | .ldVxDT _ => ⟨0xF0FF, 0xF007⟩
  | .ldVxK _ => ⟨0xF0FF, 0xF00A⟩
  | .ldDTVx _ => ⟨0xF0FF, 0xF015⟩
  | .ldSTVx _ => ⟨0xF0FF, 0xF018⟩
  | .addIVx _ => ⟨0xF0FF, 0xF01E⟩
  | .ldFVx _ => ⟨0xF0FF, 0xF029⟩
  | .ldBVx _ => ⟨0xF0FF, 0xF033⟩
  | .ldMemVx _ => ⟨0xF0FF, 0xF055⟩
  | .ldVxMem _ => ⟨0xF0FF, 0xF065⟩

/-- The rows of families 0x0 to 0x9, in the order of rule R96. -/
def opcodeRowsLow : List Row := [
  ⟨0xFFFF, 0x00E0⟩, ⟨0xFFFF, 0x00EE⟩, ⟨0xF000, 0x1000⟩, ⟨0xF000, 0x2000⟩, ⟨0xF000, 0x3000⟩,
  ⟨0xF000, 0x4000⟩, ⟨0xF00F, 0x5000⟩, ⟨0xF000, 0x6000⟩, ⟨0xF000, 0x7000⟩, ⟨0xF00F, 0x8000⟩,
  ⟨0xF00F, 0x8001⟩, ⟨0xF00F, 0x8002⟩, ⟨0xF00F, 0x8003⟩, ⟨0xF00F, 0x8004⟩, ⟨0xF00F, 0x8005⟩,
  ⟨0xF00F, 0x8006⟩, ⟨0xF00F, 0x8007⟩, ⟨0xF00F, 0x800E⟩, ⟨0xF00F, 0x9000⟩]

/-- The rows of families 0xA to 0xF, in the order of rule R96. -/
def opcodeRowsHigh : List Row := [
  ⟨0xF000, 0xA000⟩, ⟨0xF000, 0xB000⟩, ⟨0xF000, 0xC000⟩, ⟨0xF000, 0xD000⟩, ⟨0xF0FF, 0xE09E⟩,
  ⟨0xF0FF, 0xE0A1⟩, ⟨0xF0FF, 0xF007⟩, ⟨0xF0FF, 0xF00A⟩, ⟨0xF0FF, 0xF015⟩, ⟨0xF0FF, 0xF018⟩,
  ⟨0xF0FF, 0xF01E⟩, ⟨0xF0FF, 0xF029⟩, ⟨0xF0FF, 0xF033⟩, ⟨0xF0FF, 0xF055⟩, ⟨0xF0FF, 0xF065⟩]

/-- The 34 rows of rule R96. -/
def opcodeTable : List Row := opcodeRowsLow ++ opcodeRowsHigh

end Sys2Proof
end

