-- ==== Sys2Proof/Config.lean ====
section
/-! DEFINITION. What is fixed for the machine: the constants of rules R6 and R7, the Configuration of
rule R8 with its default, the host's transactions of rule R250, and the free values. -/

namespace Sys2Proof

/-- Bytes of main memory (rule R6). -/
def memSize : Nat := 4096

/-- Call-stack capacity in entries (rules R6, R29; decision D7, DESIGN CHOICE: log entry 12). -/
def stackSlots : Nat := 1024

/-- Bytes of the font bitmap (rule R6). -/
def fontBytes : Nat := 80

/-- Bytes per font glyph (rule R7; decision D16, log entry 7). -/
def fontCharSize : Nat := 5

/-- The Configuration: what RESET loads and every step only reads (rules R8, R36). -/
structure Configuration where
  /-- `IPS`: the CPU Timer's period is `1/IPS` time-unit. -/
  ips : Nat
  /-- `PROGRAM_START`: reset value of `pc`, base of LOAD. -/
  programStart : Word
  /-- `FONT_BITMAP`: the 80 bytes of the glyphs. -/
  fontBitmap : Vector Byte 80
  /-- `FONT_START`: where RESET puts the font, base of FX29. -/
  fontStart : Word
  /-- `COPY_VY_WHILE_SHIFTING`: quirk of 8XY6 and 8XYE. -/
  copyVyWhileShifting : Bool
  /-- `INCREMENT_INDEX_DURING_SAVE_LOAD`: quirk of FX55 and FX65. -/
  incrementIndexDuringSaveLoad : Bool
  /-- `INDEX_OVERFLOW_FLAG`: quirk of FX1E. -/
  indexOverflowFlag : Bool
deriving DecidableEq, Repr

/-- Glyphs 0 to 7 of the default font (rule R9). PRESUMED: log entry 7. -/
def defaultGlyphsLow : Vector Byte 40 := #v[
  0xF0, 0x90, 0x90, 0x90, 0xF0,  0x20, 0x60, 0x20, 0x20, 0x70,
  0xF0, 0x10, 0xF0, 0x80, 0xF0,  0xF0, 0x10, 0xF0, 0x10, 0xF0,
  0x90, 0x90, 0xF0, 0x10, 0x10,  0xF0, 0x80, 0xF0, 0x10, 0xF0,
  0xF0, 0x80, 0xF0, 0x90, 0xF0,  0xF0, 0x10, 0x20, 0x40, 0x40]

/-- Glyphs 8 to F of the default font (rule R9). PRESUMED: log entry 7. -/
def defaultGlyphsHigh : Vector Byte 40 := #v[
  0xF0, 0x90, 0xF0, 0x90, 0xF0,  0xF0, 0x90, 0xF0, 0x10, 0xF0,
  0xF0, 0x90, 0xF0, 0x90, 0x90,  0xE0, 0x90, 0xE0, 0x90, 0xE0,
  0xF0, 0x80, 0x80, 0x80, 0xF0,  0xE0, 0x90, 0x90, 0x90, 0xE0,
  0xF0, 0x80, 0xF0, 0x80, 0xF0,  0xF0, 0x80, 0xF0, 0x80, 0x80]

/-- "Default: 700 instructions/second, program loads at 0x200, font loads at 0x050, all quirks off"
(rule R8). -/
def Configuration.default : Configuration where
  ips := 700
  programStart := 0x200
  fontBitmap := defaultGlyphsLow ++ defaultGlyphsHigh
  fontStart := 0x050
  copyVyWhileShifting := false
  incrementIndexDuringSaveLoad := false
  indexOverflowFlag := false

/-- The host's transactions (rule R250). The key numbers are four bits at the interface (rule R253,
decision D23, log entry 10). The entropy source of a TICK is the byte it answers in that TICK: the CORE calls it
at most once there (rule R255). -/
inductive Transaction where
  | reset (config : Configuration)
  | load (bytes : List Byte)
  | press (key : Key)
  | release (key : Key)
  | tick (delta : Duration) (entropy : Byte)
  | sound
  | fb
deriving DecidableEq, Repr

/-- FREE VALUE. The byte the host's entropy source answers at its `n`-th call, where no listed TICK
names the byte: "the core puts no law on the drawn value" (rules R171, R255; U5). Log entry 3. -/
opaque Config.freeEntropy : Nat → Byte

end Sys2Proof
end

