-- ==== Sys2Proof/Machine/State.lean ====
section
/-! DEFINITION. The state of the CORE (rule R20), what the model adds to it to be run by one step
function, its value after RESET (rule R39), and the reasons a step can stop. -/

namespace Sys2Proof.Machine

/-- Main memory: the bytes that differ from their reset contents, in the canonical form of
`Memory.wf` (Machine/Ops.lean). -/
abbrev Memory := List Host.Cell

/-- The framebuffer: 32 rows, counted from the top, of 64 pixels, counted from the left (rule R32). -/
abbrev Framebuffer := Vector (Vector Bool 64) 32

/-- The two faults of rule R230. They are returned to the host; they do not stop the CORE. -/
inductive FaultKind where
  | invalidInstruction
  | popEmptyStack
deriving DecidableEq, Repr

/-- The fault record a TICK returns (rule R233): the kind, the address of the faulting instruction and
the four nibbles of its word. -/
structure FaultRecord where
  kind : FaultKind
  pc : Word
  n0 : Nibble
  n1 : Nibble
  n2 : Nibble
  n3 : Nibble
deriving DecidableEq, Repr

/-- What the CORE's last transaction returned to the host (the result column of rule R250). -/
inductive Response where
  /-- RESET, LOAD, PRESS and RELEASE return nothing. -/
  | none
  /-- A TICK's `Ok` (rule R120). -/
  | ok
  /-- A TICK's fault record (rule R233). -/
  | fault (record : FaultRecord)
  /-- SOUND's bit (rule R256). -/
  | sound (active : Bool)
  /-- FB's 2048 bits (rule R257). -/
  | frame (pixels : Framebuffer)
deriving DecidableEq, Repr

/-- The transients of the TICK in progress that an instruction can read (rule R37): `tick_key`, and the
byte the entropy source answers if it is called. -/
structure TickInput where
  key : Option Key
  entropy : Byte
deriving DecidableEq, Repr

/-- The transients between two transactions: there are none (rule R37). -/
def TickInput.idle : TickInput := ⟨.none, 0⟩

/-- The state. The first block is the CORE's, the components of rule R20; the second block is the
model's own (log entries 1, 2, 3, 4, 16 and 17). -/
structure State where
  /-- `mem`: 4096 bytes (rule R28). -/
  mem : Memory
  /-- `V[0..15]` (rule R21). -/
  V : Vector Byte 16
  /-- `I` (rule R23). -/
  I : Word
  /-- `pc` (rule R24). -/
  pc : Word
  /-- `stack[0..sp-1]`, the last pushed entry first; `sp` is its length (rule R29). -/
  stack : List Word
  /-- `dt`, the delay timer (rule R26). -/
  dt : Byte
  /-- `st`, the sound timer (rule R26). -/
  st : Byte
  /-- `fb[0..31][0..63]` (rule R32). -/
  fb : Framebuffer
  /-- `keys[0..15]` (rule R33). -/
  keys : Vector Bool 16
  /-- `latch` (rule R34). -/
  latch : Option Key
  /-- `T60.acc` (rule R35). -/
  t60Acc : Duration
  /-- `TCPU.acc` (rule R35). -/
  tcpuAcc : Duration
  /-- `CFG` (rule R36). -/
  cfg : Configuration
  /-- Model's own: the transients of the TICK in progress (rule R37), idle between transactions. -/
  tickIn : TickInput
  /-- Model's own: how often the entropy source has been called; it numbers the free values of
  `Config.freeEntropy`. -/
  draws : Nat
  /-- Model's own: the host's pending transactions, the next one first. -/
  schedule : List Transaction
  /-- Model's own: the `delta` of the TICK the host issues when `schedule` lists nothing. -/
  idleDelta : Duration
  /-- Model's own: what the last transaction returned. -/
  response : Response
deriving DecidableEq, Repr

/-- Why the machine stops: the two ABORT reasons of rule R239. An abort is a failed run, "never final,
never a value" (rule R238). Log entry 5. -/
inductive Fault where
  /-- A fetch with `pc + 1 > 0xFFF`, raised by the instruction cycle, or a data access above 0xFFF, raised
  by DXYN, FX33, FX55 and FX65. Safe: the spec leaves everything after it unspecified. -/
  | outOfBounds
  /-- A push on a full call stack, raised by 2NNN. Safe: as above. -/
  | stackOverflow
deriving DecidableEq, Repr

/-- Why the model gives a step no meaning. Each but the first is a host duty broken: "a model gives such
a transaction no step" (rule R258). Log entry 6. -/
inductive Refusal where
  /-- Raised by an arm of `exec` whose instruction has no meaning yet; none is left. Safe. -/
  | notModelled (mnemonic : String)
  /-- Raised by RESET with a Configuration outside rule R281. Safe. -/
  | illegalConfiguration
  /-- Raised by LOAD with more than `4096 − PROGRAM_START` bytes (rule R252). Safe. -/
  | loadTooLong
  /-- Raised by TICK with `delta < 0` (rule R255). Safe. -/
  | negativeDelta
deriving DecidableEq, Repr

/-- What a step or a meaning answers. -/
abbrev Result := Host.Outcome State Fault Refusal

/-- The state after RESET(`c`) (rules R39, R280). Memory lists nothing: an unlisted address reads as
its reset contents, the font of `c` included (`resetByte` of Machine/Ops.lean). The values of the last
five fields are the model's own: the host's schedule is empty and its idle TICK has `delta = 1/IPS`
(log entries 2 and 8). -/
def State.resetWith (c : Configuration) : State where
  mem := []
  V := Vector.replicate 16 0
  I := 0
  pc := c.programStart
  stack := []
  dt := 0
  st := 0
  fb := Vector.replicate 32 (Vector.replicate 64 false)
  keys := Vector.replicate 16 false
  latch := .none
  t60Acc := 0
  tcpuAcc := 0
  cfg := c
  tickIn := .idle
  draws := 0
  schedule := []
  idleDelta := mkRat 1 c.ips
  response := .none

/-- The machine right after reset, with the default Configuration of rule R8. -/
def State.reset : State := State.resetWith Configuration.default

end Sys2Proof.Machine
end

