-- ==== Sys2Proof/WellFormed.lean ====
section
/-! DEFINITION. Well-formedness: the host duties of rule R258 that a type does not already carry. An
instruction has no check of its own, because the operand types of Syntax.lean admit exactly the
encodable values (rules R21, R92, R93); a key number has none, because it is four bits at the interface
(rule R253). -/

namespace Sys2Proof

/-- A Configuration has a CPU Timer period: `IPS ≥ 1` (rule R281). -/
def Configuration.ipsLegal (c : Configuration) : Bool := decide (1 ≤ c.ips)

/-- The font copy lies inside memory: `FONT_START ≤ 0xFB0` (rule R281). -/
def Configuration.fontLegal (c : Configuration) : Bool := decide (c.fontStart.toNat + fontBytes ≤ memSize)

/-- The first fetch lies inside memory: `PROGRAM_START ≤ 0xFFE` (rule R281). -/
def Configuration.programLegal (c : Configuration) : Bool := decide (c.programStart.toNat ≤ 0xFFE)

/-- The legal Configurations of rule R281. The three quirk flags may take any combination. -/
def Configuration.legal (c : Configuration) : Bool := c.ipsLegal && c.fontLegal && c.programLegal

/-- LOAD's length bound: `len(bytes) ≤ 4096 − PROGRAM_START` (rule R252). -/
def loadFits (c : Configuration) (bytes : List Byte) : Bool :=
  decide (c.programStart.toNat + bytes.length ≤ memSize)

/-- TICK's duty: `delta ≥ 0` (rule R255). -/
def deltaLegal (delta : Duration) : Bool := decide (0 ≤ delta.num)

/-- The host duties a transaction's arguments must meet (rule R258). -/
def Transaction.legal (c : Configuration) : Transaction → Bool
  | .reset config => config.legal
  | .load bytes => loadFits c bytes
  | .tick delta _ => deltaLegal delta
  | .press _ => true
  | .release _ => true
  | .sound => true
  | .fb => true

end Sys2Proof
end

