-- ==== Sys2Proof/Machine/Ops.lean ====
section
/-! DEFINITION. The named operations over the state that the meanings share: registers, memory, the
call stack, the framebuffer, raising a fault. -/

namespace Sys2Proof.Machine

/-! ## One field at a time -/

def State.setMem (s : State) (m : Memory) : State := { s with mem := m }
def State.setI (s : State) (a : Word) : State := { s with I := a }
def State.setPc (s : State) (a : Word) : State := { s with pc := a }
def State.setStack (s : State) (k : List Word) : State := { s with stack := k }
def State.setDt (s : State) (b : Byte) : State := { s with dt := b }
def State.setSt (s : State) (b : Byte) : State := { s with st := b }
def State.setFb (s : State) (f : Framebuffer) : State := { s with fb := f }
def State.setKeys (s : State) (k : Vector Bool 16) : State := { s with keys := k }
def State.setLatch (s : State) (k : Option Key) : State := { s with latch := k }
def State.setT60Acc (s : State) (d : Duration) : State := { s with t60Acc := d }
def State.setTcpuAcc (s : State) (d : Duration) : State := { s with tcpuAcc := d }
def State.setTickIn (s : State) (i : TickInput) : State := { s with tickIn := i }
def State.setDraws (s : State) (n : Nat) : State := { s with draws := n }
def State.setSchedule (s : State) (ts : List Transaction) : State := { s with schedule := ts }
def State.setResponse (s : State) (r : Response) : State := { s with response := r }

/-! ## General registers (rule R21) -/

/-- `V[r]`. -/
def State.v (s : State) (r : RegNum) : Byte := s.V[r.val]'r.isLt

/-- `V[r] <- b`. -/
def State.setV (s : State) (r : RegNum) (b : Byte) : State := { s with V := s.V.set r.val b r.isLt }

/-! ## The call stack (rules R29 to R31) -/

/-- `sp`, the number of entries in use (rule R29). -/
def State.sp (s : State) : Nat := s.stack.length

/-- `stack[k]`, counted from the first pushed entry; none at and above `sp`, where entries are not
state (rule R29). -/
def State.stackEntry (s : State) (k : Nat) : Option Word := s.stack.reverse[k]?

/-- `Push(v)`; none where the stack is full (rule R30). -/
def State.push (s : State) (v : Word) : Option State :=
  if s.sp = stackSlots then none else some (s.setStack (v :: s.stack))

/-- `Pop()`: the most recent entry and the state without it; none where the stack is empty (rule R31). -/
def State.pop (s : State) : Option (Word × State) :=
  match s.stack with
  | [] => none
  | a :: rest => some (a, s.setStack rest)

/-! ## Memory (rules R60 to R66) -/

/-- The reset contents of an address: the font at `FONT_START`, 0 elsewhere (rules R39, R67). This is
what an unlisted address reads as. -/
def resetByte (c : Configuration) (a : Nat) : Byte :=
  if h : c.fontStart.toNat ≤ a ∧ a < c.fontStart.toNat + 80 then
    c.fontBitmap[a - c.fontStart.toNat]'(by omega)
  else 0

/-- The listed byte of an address. -/
def Memory.find (m : Memory) (a : Nat) : Option Byte :=
  match m with
  | [] => none
  | (k, b) :: rest => if k = a then some b else Memory.find rest a

/-- The byte at an address. -/
def Memory.get (c : Configuration) (m : Memory) (a : Nat) : Byte :=
  match m.find a with
  | some b => b
  | none => resetByte c a

/-- One cell in front of a memory, left out where it holds the reset contents. -/
def Memory.cons (c : Configuration) (a : Nat) (b : Byte) (rest : Memory) : Memory :=
  if b = resetByte c a then rest else (a, b) :: rest

/-- The memory with the byte `b` at address `a`, in canonical form if `m` is. -/
def Memory.put (c : Configuration) (m : Memory) (a : Nat) (b : Byte) : Memory :=
  match m with
  | [] => Memory.cons c a b []
  | (k, old) :: rest =>
    if a < k then Memory.cons c a b ((k, old) :: rest)
    else if a = k then Memory.cons c a b rest
    else (k, old) :: Memory.put c rest a b

/-- The canonical form from address `lo` upward. -/
def Memory.wfFrom (c : Configuration) (lo : Nat) (m : Memory) : Bool :=
  match m with
  | [] => true
  | (k, b) :: rest =>
    decide (lo ≤ k) && decide (k < memSize) && decide (b ≠ resetByte c k) && Memory.wfFrom c (k + 1) rest

/-- The canonical form: addresses strictly rising and inside memory, no entry equal to the reset
contents of its address. -/
def Memory.wf (c : Configuration) (m : Memory) : Bool := Memory.wfFrom c 0 m

/-- The bytes written one after the other at rising addresses from `a`. -/
def Memory.putAll (c : Configuration) (m : Memory) (a : Nat) (bs : List Byte) : Memory :=
  match bs with
  | [] => m
  | b :: rest => Memory.putAll c (Memory.put c m a b) (a + 1) rest

/-- The byte the memory holds at an address. -/
def State.byteAt (s : State) (a : Nat) : Byte := s.mem.get s.cfg a

/-- `MemRead(a, 1)`; none where the access is above 0xFFF and aborts (rule R66). -/
def State.memRead (s : State) (a : Nat) : Option Byte :=
  if a < memSize then some (s.byteAt a) else none

/-- `MemRead(a, 2)`, most significant byte first (rule R62); none where an address is above 0xFFF. -/
def State.memReadWord (s : State) (a : Nat) : Option Word :=
  match s.memRead a, s.memRead (a + 1) with
  | some b0, some b1 => some (wordOfBytes b0 b1)
  | _, _ => none

/-- `MemWrite(a, 1, b)`; none where the access is above 0xFFF and aborts (rule R66). -/
def State.memWrite (s : State) (a : Nat) (b : Byte) : Option State :=
  if a < memSize then some (s.setMem (s.mem.put s.cfg a b)) else none

/-- `MemWrite` of each byte at rising addresses from `a` (rule R65). -/
def State.memWriteAll (s : State) (a : Nat) (bs : List Byte) : Option State :=
  match bs with
  | [] => some s
  | b :: rest =>
    match s.memWrite a b with
    | some s' => State.memWriteAll s' (a + 1) rest
    | none => none

/-! ## The framebuffer (rule R32) -/

/-- `fb[y][x]`; false off the screen. -/
def pixel (f : Framebuffer) (y x : Nat) : Bool :=
  if h : y < 32 ∧ x < 64 then (f[y]'h.1)[x]'h.2 else false

/-- `fb[y][x] <- not fb[y][x]`; nothing off the screen. -/
def togglePixel (f : Framebuffer) (y x : Nat) : Framebuffer :=
  if h : y < 32 ∧ x < 64 then
    f.set y ((f[y]'h.1).set x (!((f[y]'h.1)[x]'h.2)) h.2) h.1
  else f

/-- All pixels false. -/
def clearFramebuffer : Framebuffer := Vector.replicate 32 (Vector.replicate 64 false)

/-! ## Control flow (rules R24, R125, R129) -/

/-- "Skip next instr": `pc <- pc + 2` (rule R129). The advance of rule R125 is the same addition. -/
def State.skipNext (s : State) : State := s.setPc (s.pc + 2)

/-- `opc` in the execute phase: the instruction's own address, `pc - 2` (rule R24). -/
def State.opc (s : State) : Word := s.pc - 2

/-! ## Faults and aborts -/

/-- `raise kind(opc, n0, n1, n2, n3)` (rule R233): the fault record becomes the result of the TICK,
`pc` stays advanced, nothing else changes. There is no handler, no saved register and no mode (rule
R236), and the CORE goes on at the next TICK (rule R237); the return from a fault is the host's next
TICK. -/
def raiseFault (kind : FaultKind) (n0 n1 n2 n3 : Nibble) (s : State) : Result :=
  .next (s.setResponse (.fault ⟨kind, s.opc, n0, n1, n2, n3⟩))

/-- The number of a fault: `0 = InvalidInstruction`, `1 = PopEmptyStack` (rule R234, decision D20). -/
def FaultKind.code : FaultKind → BitVec 1
  | .invalidInstruction => 0
  | .popEmptyStack => 1

/-- The 33 bits of a fault record: kind, `pc`, four nibbles (rule R234). DEDUCED: log entry 14. -/
def FaultRecord.bits (r : FaultRecord) : BitVec 33 :=
  r.kind.code ++ r.pc ++ r.n0 ++ r.n1 ++ r.n2 ++ r.n3

/-- The state, where every access was inside memory; `abort OutOfBounds` where one was not (rules R66,
R238, R239). -/
def orOutOfBounds (o : Option State) : Result :=
  match o with
  | some s => .next s
  | none => .fault .outOfBounds

/-- The state, where the push found room; `abort StackOverflow` where it did not (rules R30, R239). -/
def orStackOverflow (o : Option State) : Result :=
  match o with
  | some s => .next s
  | none => .fault .stackOverflow

end Sys2Proof.Machine
end

