-- ==== Sys2Proof/Machine/Operands.lean ====
section
/-! DEFINITION. The operand forms: immediates widened to 16 bits (rule R93), the effective addresses of
rule R74, the register block of FX55 and FX65, the decimal digits of FX33, the glyph address of FX29,
the key number of EX9E and EXA1. -/

namespace Sys2Proof.Machine

/-- `zext_16(NNN)`. -/
def zextAddr (nnn : BitVec 12) : Word := nnn.setWidth 16

/-- `zext_16(V[r])`. -/
def zextByte (b : Byte) : Word := b.setWidth 16

/-- `zext_8` of a key number. -/
def zextKey (k : Key) : Byte := BitVec.ofNat 8 k.val

/-- The data address `I + offset`, computed without truncation (rule R74). -/
abbrev State.dataAddr (s : State) (offset : Nat) : Nat := s.I.toNat + offset

/-- The values of `V[0]` to `V[x]`, in this order (rule R63). -/
def State.regsUpTo (s : State) (x : RegNum) : List Byte := s.V.toList.take (x.val + 1)

/-- `V[i] <- MemRead(I + i, 1)` for the `n` registers from `i` upward, the addresses from the given
starting value of `I` (rule R185); none where an access is above 0xFFF. A register number is below 16
in every call. -/
def State.loadRegs (s : State) (i : Nat) (n : Nat) : Option State :=
  match n with
  | 0 => some s
  | n + 1 =>
    match s.memRead (s.dataAddr i) with
    | some b => State.loadRegs (s.setV (Fin.ofNat 16 i) b) (i + 1) n
    | none => none

/-- The final `I` of FX55 and FX65: `I + X + 1` modulo 65536 with the increment quirk, `I` without
(rules R184, R185). -/
def State.indexAfterBlock (s : State) (x : RegNum) : Word :=
  if s.cfg.incrementIndexDuringSaveLoad then s.I + BitVec.ofNat 16 (x.val + 1) else s.I

/-- The hundreds, tens and units of a byte (rule R183). -/
def bcdDigits (b : Byte) : List Byte :=
  [BitVec.ofNat 8 (b.toNat / 100), BitVec.ofNat 8 (b.toNat / 10 % 10), BitVec.ofNat 8 (b.toNat % 10)]

/-- `trunc_16(FONT_START + (v & 0x0F) * 5)` (rule R182). -/
def glyphAddr (c : Configuration) (b : Byte) : Word :=
  c.fontStart + BitVec.ofNat 16 ((b &&& 0x0F).toNat * fontCharSize)

/-- The state of the key a whole byte names; none for 16 and above (rules R210, R211). -/
def State.keyState (s : State) (k : Byte) : Option Bool :=
  if h : k.toNat < 16 then some (s.keys[k.toNat]'h) else none

end Sys2Proof.Machine
end

