-- ==== Sys2Proof/Machine/Flags.lean ====
section
/-! DEFINITION. What the four instructions with a flag write to VF (rule R22). No other instruction
computes a flag: 8XY4, 8XY5 and 8XY7 have no carry and no borrow (rules R166, R167, R169, R293). -/

namespace Sys2Proof.Machine

/-- `VX & 0x01`, the flag of 8XY6 (rule R168). -/
def shiftRightFlag (vx : Byte) : Byte := vx &&& 0x01

/-- `VX & 0x80`, the flag of 8XYE, not normalised to 1 (rule R170). -/
def shiftLeftFlag (vx : Byte) : Byte := vx &&& 0x80

/-- The collision flag of DXYN, 0 or 1 (rule R201). -/
def collisionFlag (collided : Bool) : Byte := if collided then 1 else 0

/-- When FX1E writes 1 to VF: the quirk is set and the new stored `I` exceeds 0x0FFF (rule R181,
decision D9, log entry 10). Otherwise FX1E does not write VF. -/
def indexOverflows (c : Configuration) (newI : Word) : Bool :=
  c.indexOverflowFlag && decide (0x0FFF < newI.toNat)

/-- `V[0xF] <- b`. -/
def State.setFlag (s : State) (b : Byte) : State := s.setV vF b

end Sys2Proof.Machine
end

