-- ==== Sys2Proof/Machine/Alu.lean ====
section
/-! DEFINITION. Register load, arithmetic, logic, shift and random: 6XNN, 7XNN, 8XY0 to 8XY7, 8XYE,
CXNN (43_alu.md). Register arithmetic wraps modulo 256 (rule R172), which is the addition and
subtraction of `BitVec 8`. -/

namespace Sys2Proof.Machine

/-- 6XNN `LD Vx, byte` (rule R160). -/
def execLdVxByte (x : RegNum) (nn : Byte) (s : State) : Result := .next (s.setV x nn)

/-- 7XNN `ADD Vx, byte` (rule R161). -/
def execAddVxByte (x : RegNum) (nn : Byte) (s : State) : Result := .next (s.setV x (s.v x + nn))

/-- 8XY0 `LD Vx, Vy` (rule R162). -/
def execLdVxVy (x y : RegNum) (s : State) : Result := .next (s.setV x (s.v y))

/-- 8XY1 `OR Vx, Vy` (rule R163). -/
def execOrVxVy (x y : RegNum) (s : State) : Result := .next (s.setV x (s.v x ||| s.v y))

/-- 8XY2 `AND Vx, Vy` (rule R164). -/
def execAndVxVy (x y : RegNum) (s : State) : Result := .next (s.setV x (s.v x &&& s.v y))

/-- 8XY3 `XOR Vx, Vy` (rule R165). -/
def execXorVxVy (x y : RegNum) (s : State) : Result := .next (s.setV x (s.v x ^^^ s.v y))

/-- 8XY4 `ADD Vx, Vy`, no carry out (rule R166). -/
def execAddVxVy (x y : RegNum) (s : State) : Result := .next (s.setV x (s.v x + s.v y))

/-- 8XY5 `SUB Vx, Vy`, no borrow out (rule R167). -/
def execSubVxVy (x y : RegNum) (s : State) : Result := .next (s.setV x (s.v x - s.v y))

/-- 8XY7 `SUBN Vx, Vy`, no borrow out (rule R169). -/
def execSubnVxVy (x y : RegNum) (s : State) : Result := .next (s.setV x (s.v y - s.v x))

/-- `V[X] <- V[Y]` when `COPY_VY_WHILE_SHIFTING` is set, the middle statement of 8XY6 and 8XYE (rules
R168, R170). -/
def State.copyForShift (s : State) (x y : RegNum) : State :=
  if s.cfg.copyVyWhileShifting then s.setV x (s.v y) else s

/-- 8XY6 `SHR Vx, Vy` (rule R168): VF first, then the copy, then the shift; each statement sees the
writes of those before it. -/
def execShrVxVy (x y : RegNum) (s : State) : Result :=
  let s1 := s.setFlag (shiftRightFlag (s.v x))
  let s2 := s1.copyForShift x y
  .next (s2.setV x (s2.v x >>> 1))

/-- 8XYE `SHL Vx, Vy` (rule R170): in the order of 8XY6. -/
def execShlVxVy (x y : RegNum) (s : State) : Result :=
  let s1 := s.setFlag (shiftLeftFlag (s.v x))
  let s2 := s1.copyForShift x y
  .next (s2.setV x (s2.v x <<< 1))

/-- `Entropy()`: the byte the host's source answers in this TICK, and the state in which the source has
been called once more (rule R255). -/
def State.entropy (s : State) : Byte × State := (s.tickIn.entropy, s.setDraws (s.draws + 1))

/-- CXNN `RND Vx, byte` (rule R171). -/
def execRndVxByte (x : RegNum) (nn : Byte) (s : State) : Result :=
  let (r, s') := s.entropy
  .next (s'.setV x (r &&& nn))

end Sys2Proof.Machine
end

