-- ==== Sys2Proof/Machine/Display.lean ====
section
/-! DEFINITION. The display instructions: 00E0, DXYN (45_display.md). -/

namespace Sys2Proof.Machine

/-- 00E0 `CLS` (rule R200). -/
def execCls (s : State) : Result := .next (s.setFb clearFramebuffer)

/-- What DXYN has drawn so far: the framebuffer, and whether a lit pixel was turned off. -/
structure Canvas where
  fb : Framebuffer
  collided : Bool
deriving DecidableEq, Repr

/-- One set sprite bit at column `x` of row `y` (rule R201). -/
def Canvas.flip (c : Canvas) (y x : Nat) : Canvas :=
  ⟨togglePixel c.fb y x, c.collided || pixel c.fb y x⟩

/-- The bit of a sprite byte for a column: bit 7 is the leftmost pixel (rule R201). PRESUMED by the
spec itself (decision D13): log entry 9. -/
def spriteBit (b : Byte) (col : Nat) : Bool := b.getLsbD (7 - col)

/-- The `n` columns of a sprite row from column `col` on; columns at and beyond the right edge are
discarded (rule R201). -/
def Canvas.drawColumns (c : Canvas) (y x0 : Nat) (b : Byte) (col n : Nat) : Canvas :=
  match n with
  | 0 => c
  | n + 1 =>
    if 64 ≤ x0 + col then c
    else if spriteBit b col then Canvas.drawColumns (c.flip y (x0 + col)) y x0 b (col + 1) n
    else Canvas.drawColumns c y x0 b (col + 1) n

/-- The `n` sprite rows from row `row` on, one byte at `I + row` each; rows at and below the bottom edge
are discarded and not read (rule R201, decision D14, log entry 10). None where a row that is read lies above 0xFFF. -/
def drawRows (s : State) (y0 x0 : Nat) (c : Canvas) (row n : Nat) : Option Canvas :=
  match n with
  | 0 => some c
  | n + 1 =>
    if 32 ≤ y0 + row then some c
    else
      match s.memRead (s.dataAddr row) with
      | some b => drawRows s y0 x0 (c.drawColumns (y0 + row) x0 b 0 8) (row + 1) n
      | none => none

/-- DXYN `DRW Vx, Vy, nibble` (rule R201): the coordinates are read before VF is cleared (decision D12, log
entry 10),
and VF ends as the collision flag. -/
def execDrwVxVyNibble (x y : RegNum) (n : Nibble) (s : State) : Result :=
  let x0 := (s.v x).toNat % 64
  let y0 := (s.v y).toNat % 32
  orOutOfBounds ((drawRows s y0 x0 ⟨s.fb, false⟩ 0 n.toNat).map fun c =>
    (s.setFb c.fb).setFlag (collisionFlag c.collided))

end Sys2Proof.Machine
end

