-- ==== Sys2Proof/Machine/Flow.lean ====
section
/-! DEFINITION. Control transfer: 00EE, 1NNN, 2NNN, BNNN (41_flow.md). In every meaning `pc` already
holds `opc + 2` (rule R125). -/

namespace Sys2Proof.Machine

/-- 00EE `RET` (rule R140). -/
def execRet (s : State) : Result :=
  match s.pop with
  | some (a, s') => .next (s'.setPc a)
  | none => raiseFault .popEmptyStack 0x0 0x0 0xE 0xE s

/-- 1NNN `JP addr` (rule R141). -/
def execJpAddr (nnn : BitVec 12) (s : State) : Result := .next (s.setPc (zextAddr nnn))

/-- 2NNN `CALL addr` (rule R142). -/
def execCallAddr (nnn : BitVec 12) (s : State) : Result :=
  orStackOverflow ((s.push s.pc).map fun s' => s'.setPc (zextAddr nnn))

/-- BNNN `JP V0, addr` (rule R143). -/
def execJpV0Addr (nnn : BitVec 12) (s : State) : Result :=
  .next (s.setPc (zextAddr nnn + zextByte (s.v 0)))

end Sys2Proof.Machine
end

