-- ==== Sys2Proof/Machine/IndexMemory.lean ====
section
/-! DEFINITION. The index register and memory transfer: ANNN, FX1E, FX29, FX33, FX55, FX65
(44_index_memory.md). -/

namespace Sys2Proof.Machine

/-- ANNN `LD I, addr` (rule R180). -/
def execLdIAddr (nnn : BitVec 12) (s : State) : Result := .next (s.setI (zextAddr nnn))

/-- FX1E `ADD I, Vx` (rule R181): the sum modulo 65536 (decision D8), then VF := 1 under the quirk when
the stored result exceeds 0x0FFF (decision D9; both in log entry 10). -/
def execAddIVx (x : RegNum) (s : State) : Result :=
  let s1 := s.setI (s.I + zextByte (s.v x))
  .next (if indexOverflows s1.cfg s1.I then s1.setFlag 1 else s1)

/-- FX29 `LD F, Vx` (rule R182). -/
def execLdFVx (x : RegNum) (s : State) : Result := .next (s.setI (glyphAddr s.cfg (s.v x)))

/-- FX33 `LD B, Vx` (rule R183). -/
def execLdBVx (x : RegNum) (s : State) : Result :=
  orOutOfBounds (s.memWriteAll (s.dataAddr 0) (bcdDigits (s.v x)))

/-- FX55 `LD [I], Vx` (rule R184): V0 to VX at rising addresses from `I`, then the quirk's increment. -/
def execLdMemVx (x : RegNum) (s : State) : Result :=
  orOutOfBounds ((s.memWriteAll (s.dataAddr 0) (s.regsUpTo x)).map fun s' => s'.setI (s.indexAfterBlock x))

/-- FX65 `LD Vx, [I]` (rule R185): V0 to VX from rising addresses from `I`, then the quirk's increment. -/
def execLdVxMem (x : RegNum) (s : State) : Result :=
  orOutOfBounds ((s.loadRegs 0 (x.val + 1)).map fun s' => s'.setI (s.indexAfterBlock x))

end Sys2Proof.Machine
end

