-- ==== Sys2Proof/Machine/Skip.lean ====
section
/-! DEFINITION. Conditional skips on registers: 3XNN, 4XNN, 5XY0, 9XY0 (42_skip.md). -/

namespace Sys2Proof.Machine

/-- Skip the next instruction when the condition holds (rule R129). -/
def skipWhen (cond : Bool) (s : State) : Result := .next (if cond then s.skipNext else s)

/-- 3XNN `SE Vx, byte` (rule R150). -/
def execSeVxByte (x : RegNum) (nn : Byte) (s : State) : Result := skipWhen (s.v x == nn) s

/-- 4XNN `SNE Vx, byte` (rule R151). -/
def execSneVxByte (x : RegNum) (nn : Byte) (s : State) : Result := skipWhen (s.v x != nn) s

/-- 5XY0 `SE Vx, Vy` (rule R152). -/
def execSeVxVy (x y : RegNum) (s : State) : Result := skipWhen (s.v x == s.v y) s

/-- 9XY0 `SNE Vx, Vy` (rule R153). -/
def execSneVxVy (x y : RegNum) (s : State) : Result := skipWhen (s.v x != s.v y) s

end Sys2Proof.Machine
end

