-- ==== Sys2Proof/Machine/Keypad.lean ====
section
/-! DEFINITION. The keypad instructions: EX9E, EXA1, FX0A (46_keypad.md). -/

namespace Sys2Proof.Machine

/-- EX9E `SKP Vx` (rule R210): a key number of 16 or above never skips. -/
def execSkpVx (x : RegNum) (s : State) : Result := skipWhen (s.keyState (s.v x) == some true) s

/-- EXA1 `SKNP Vx` (rule R211): a key number of 16 or above never skips. -/
def execSknpVx (x : RegNum) (s : State) : Result := skipWhen (s.keyState (s.v x) == some false) s

/-- FX0A `LD Vx, K` (rule R212): the key captured by this TICK, or back to the instruction itself. -/
def execLdVxK (x : RegNum) (s : State) : Result :=
  match s.tickIn.key with
  | some k => .next (s.setV x (zextKey k))
  | none => .next (s.setPc s.opc)

end Sys2Proof.Machine
end

