-- ==== Sys2Proof/Machine/TimerAccess.lean ====
section
/-! DEFINITION. Timer access: FX07, FX15, FX18 (47_timer_access.md). -/

namespace Sys2Proof.Machine

/-- FX07 `LD Vx, DT` (rule R220). -/
def execLdVxDT (x : RegNum) (s : State) : Result := .next (s.setV x s.dt)

/-- FX15 `LD DT, Vx` (rule R221). -/
def execLdDTVx (x : RegNum) (s : State) : Result := .next (s.setDt (s.v x))

/-- FX18 `LD ST, Vx` (rule R222). -/
def execLdSTVx (x : RegNum) (s : State) : Result := .next (s.setSt (s.v x))

end Sys2Proof.Machine
end

