-- ==== Sys2Proof/Machine/Tick.lean ====
section
/-! DEFINITION. The Timers (rules R244 to R246) and the TICK transaction with its instruction cycle
(rules R120 to R128). -/

namespace Sys2Proof.Machine

/-! ## Durations -/

/-- The sum of two exact durations (rule R244, decision D15, log entry 11); `durationAdd_eq_add` of Laws/Tick.lean says
that it is the sum of the rationals. It is written on numerators and denominators so that it
evaluates. -/
def durationAdd (a b : Duration) : Duration := mkRat (a.num * b.den + b.num * a.den) (a.den * b.den)

/-- "reaches or exceeds": `a ≥ period` (rule R244). -/
def durationReaches (a period : Duration) : Bool := decide (period.num * a.den ≤ a.num * period.den)

/-- `T60.period = 1/60` time-unit (rules R6, R245). -/
def t60Period : Duration := mkRat 1 60

/-- `TCPU.period = 1/IPS` time-unit (rule R245). -/
def cpuPeriod (c : Configuration) : Duration := mkRat 1 c.ips

/-- `Check(T, delta)` (rule R244): whether the Timer fired, and its accumulator afterwards. On a fire the
excess over one period is discarded. -/
def timerCheck (period acc delta : Duration) : Bool × Duration :=
  let sum := durationAdd acc delta
  if durationReaches sum period then (true, 0) else (false, sum)

/-! ## The steps of a TICK -/

/-- `if c > 0 then c <- c - 1` (rule R246). -/
def countDown (c : Byte) : Byte := if c = 0 then 0 else c - 1

/-- The `T60` fire: both counters, each floored at zero (rule R246). -/
def State.decrementTimers (s : State) : State := (s.setDt (countDown s.dt)).setSt (countDown s.st)

/-- Step 1 (rule R121): the latch is captured for this TICK and cleared. The result of the TICK is `Ok`
unless an instruction raises a fault. -/
def State.captureLatch (s : State) (entropy : Byte) : State :=
  ((s.setTickIn ⟨s.latch, entropy⟩).setLatch none).setResponse .ok

/-- Step 2 (rule R122). -/
def State.tickT60 (s : State) (delta : Duration) : State :=
  let (fired, acc) := timerCheck t60Period s.t60Acc delta
  let s' := s.setT60Acc acc
  if fired then s'.decrementTimers else s'

/-- Fetch (rule R124): the word at `pc`, none where `pc + 1 > 0xFFF`. -/
def State.fetch (s : State) : Option Word := s.memReadWord s.pc.toNat

/-- Decode and dispatch of a fetched word, `pc` being advanced (rules R126, R127). -/
def dispatch (w : Word) (s : State) : Result :=
  match decode w with
  | some i => exec i s
  | none => raiseFault .invalidInstruction (n0 w) (n1 w) (n2 w) (n3 w) s

/-- The instruction cycle (rule R128): fetch, advance, decode, execute. -/
def instructionCycle (s : State) : Result :=
  match s.fetch with
  | some w => dispatch w (s.setPc (s.pc + 2))
  | none => .fault .outOfBounds

/-- The end of a TICK: its transients are gone (rule R37). -/
def endTick (r : Result) : Result :=
  match r with
  | .next s => .next (s.setTickIn .idle)
  | .fault f => .fault f
  | .refused f => .refused f

/-- Step 3 (rule R123): exactly one instruction cycle if the CPU Timer fires. -/
def State.tickCpu (s : State) (delta : Duration) : Result :=
  let (fired, acc) := timerCheck (cpuPeriod s.cfg) s.tcpuAcc delta
  let s' := s.setTcpuAcc acc
  if fired then instructionCycle s' else .next s'

/-- The TICK transaction (rule R120): latch, `T60`, `TCPU`, in this order. A negative `delta` breaks a host
duty (rule R258). -/
def runTick (delta : Duration) (entropy : Byte) (s : State) : Result :=
  if deltaLegal delta then endTick (((s.captureLatch entropy).tickT60 delta).tickCpu delta)
  else .refused .negativeDelta

end Sys2Proof.Machine
end

