-- ==== Sys2Proof/Machine/Transactions.lean ====
section
/-! DEFINITION. The host's transactions (rules R250 to R258) and the two observers. One step of the model
is one transaction (log entry 1). -/

namespace Sys2Proof.Machine

/-- SOUND: true while `sound_timer > 0` (rule R256). -/
def State.soundActive (s : State) : Bool := decide (0 < s.st.toNat)

/-- RESET(`c`) (rules R251, R280). What stands outside the CORE is kept: the host's pending
transactions, the `delta` of its idle TICK and the count of its entropy source (log entry 13). -/
def runReset (c : Configuration) (s : State) : Result :=
  if c.legal then
    .next { State.resetWith c with draws := s.draws, schedule := s.schedule, idleDelta := s.idleDelta }
  else .refused .illegalConfiguration

/-- LOAD(`bytes`) (rule R252): memory from `PROGRAM_START` upward and nothing else. -/
def runLoad (bytes : List Byte) (s : State) : Result :=
  if loadFits s.cfg bytes then
    .next ((s.setMem (s.mem.putAll s.cfg s.cfg.programStart.toNat bytes)).setResponse .none)
  else .refused .loadTooLong

/-- PRESS(`k`) (rule R253). -/
def runPress (k : Key) (s : State) : Result :=
  .next (((s.setKeys (s.keys.set k.val true k.isLt)).setLatch (some k)).setResponse .none)

/-- RELEASE(`k`) (rule R254): the latch is not changed (decision D23, log entry 10). -/
def runRelease (k : Key) (s : State) : Result :=
  .next ((s.setKeys (s.keys.set k.val false k.isLt)).setResponse .none)

/-- SOUND as a transaction: its bit is returned, nothing changes (rule R256). -/
def runSound (s : State) : Result := .next (s.setResponse (.sound s.soundActive))

/-- FB as a transaction: the framebuffer is returned, nothing changes (rule R257). -/
def runFb (s : State) : Result := .next (s.setResponse (.frame s.fb))

/-- One transaction (rule R250). -/
def transact (t : Transaction) (s : State) : Result :=
  match t with
  | .reset c => runReset c s
  | .load bytes => runLoad bytes s
  | .press k => runPress k s
  | .release k => runRelease k s
  | .tick delta entropy => runTick delta entropy s
  | .sound => runSound s
  | .fb => runFb s

/-- The TICK the host issues when its schedule lists nothing (log entries 2 and 3). -/
def State.idleTick (s : State) : Transaction := .tick s.idleDelta (Config.freeEntropy s.draws)

/-- The host's next transaction, and the state in which it is no longer pending. -/
def State.takeTransaction (s : State) : Transaction × State :=
  match s.schedule with
  | [] => (s.idleTick, s)
  | t :: rest => (t, s.setSchedule rest)

/-- The next transaction. -/
def nextTransaction (s : State) : Result := transact s.takeTransaction.1 s.takeTransaction.2

/-- The TICK that surely fires the CPU Timer of a state within the invariant: `delta = 1/IPS`. -/
def State.firingTick (s : State) : Transaction := .tick (cpuPeriod s.cfg) (Config.freeEntropy s.draws)

/-- A word stored where the next instruction cycle fetches, where the two bytes lie inside memory. -/
def State.placeWord (s : State) (w : Word) : State :=
  if s.pc.toNat + 1 < memSize then s.setMem (s.mem.putAll s.cfg s.pc.toNat [highByte w, lowByte w]) else s

end Sys2Proof.Machine
end

