-- ==== Sys2Proof/Machine/Step.lean ====
section
/-! DEFINITION. One step of the model: one host transaction, the unit in which the CORE changes state
(rule R14). -/

namespace Sys2Proof.Machine

/-- One step: the next transaction of the host's schedule, a TICK where it lists none. -/
def step (s : State) : Host.Outcome State Fault Refusal := Sys2Proof.Machine.nextTransaction s

/-- The state whose next step fetches and runs the word `w`: the word at `pc`, and a TICK that fires the
CPU Timer in front of the host's schedule (log entry 15). -/
def State.withFetchWord (s : State) (nbits w : Nat) : State :=
  let s' := s.placeWord (BitVec.ofNat 16 (w % 2 ^ nbits))
  s'.setSchedule (s'.firingTick :: s'.schedule)

end Sys2Proof.Machine
end

