-- ==== Sys2Proof/Safety.lean ====
section
/-! DEFINITION. The invariant of rule R38, what a safe run is, and the quiescent states of rule R262. -/

namespace Sys2Proof.Machine

/-- What holds between two transactions (rules R25, R29, R38). The widths of the registers, the range of
the latch and the sizes of the arrays are carried by the types of State. -/
structure State.Inv (s : State) : Prop where
  /-- Memory is in canonical form. -/
  memory : s.mem.wf s.cfg = true
  /-- The Configuration is legal (rule R281). -/
  config : s.cfg.legal = true
  /-- "The largest value `pc` can take is 0x10FE" (rule R25). -/
  pcBound : s.pc.toNat ≤ 0x10FE
  /-- `sp ≤ STACK_SLOTS` (rule R38). -/
  stackDepth : s.sp ≤ stackSlots
  /-- Every return address is the address after a 2NNN that was fetched inside memory (rule R140). -/
  stackEntries : ∀ a ∈ s.stack, 2 ≤ a.toNat ∧ a.toNat ≤ 0x1000
  /-- `0 ≤ T60.acc < 1/60` (rule R38). -/
  t60 : 0 ≤ s.t60Acc ∧ s.t60Acc < 1 / 60
  /-- `0 ≤ TCPU.acc < 1/CFG.IPS` (rule R38). -/
  tcpu : 0 ≤ s.tcpuAcc ∧ s.tcpuAcc < 1 / (s.cfg.ips : Rat)
  /-- No transient outlives its TICK (rule R37). -/
  noTransients : s.tickIn = .idle
  /-- The host's idle TICK meets its duty (rule R258). -/
  idleDuty : deltaLegal s.idleDelta = true

/-- A run of `k` steps with no abort and no host duty broken (rules R238, R258). A fault record is no
stop: the TICK returns it and the CORE goes on (rule R237). -/
def SafeRun (k : Nat) (s : State) : Prop :=
  match k with
  | 0 => True
  | k + 1 =>
    match step s with
    | .next t => SafeRun k t
    | .fault _ => False
    | .refused _ => False

/-- Quiescent at `a`: `pc = a`, and the two bytes at `a` encode `1NNN` with NNN = `a` (rule R262). -/
def State.QuiescentAt (s : State) (a : BitVec 12) : Prop :=
  s.pc = zextAddr a ∧ s.memReadWord a.toNat = some (encode (.jpAddr a))

end Sys2Proof.Machine
end

