-- ==== Sys2Proof/Certificates/Slice0/Obligations.lean ====
section
/-! DEFINITION. The statements about the model, for the provers. The names of Sys2Proof.Claims say what the
statements share: frames, the closed form of a sprite, and the tables of what an instruction may write and
when it aborts. -/

namespace Sys2Proof.Claims

open Sys2Proof.Machine

/-! ## Frames -/

/-- The parts of the state. -/
inductive Part where
  | mem | V | I | pc | stack | dt | st | fb | keys | latch | t60Acc | tcpuAcc | cfg
  | tickIn | draws | schedule | idleDelta | response
deriving DecidableEq, Repr

/-- A part is the same in two states; memory is, when every address reads the same. -/
def Part.Same (s t : State) : Part → Prop
  | .mem => ∀ a, t.byteAt a = s.byteAt a
  | .V => ∀ r, t.v r = s.v r
  | .I => t.I = s.I
  | .pc => t.pc = s.pc
  | .stack => t.stack = s.stack
  | .dt => t.dt = s.dt
  | .st => t.st = s.st
  | .fb => ∀ y x, pixel t.fb y x = pixel s.fb y x
  | .keys => t.keys = s.keys
  | .latch => t.latch = s.latch
  | .t60Acc => t.t60Acc = s.t60Acc
  | .tcpuAcc => t.tcpuAcc = s.tcpuAcc
  | .cfg => t.cfg = s.cfg
  | .tickIn => t.tickIn = s.tickIn
  | .draws => t.draws = s.draws
  | .schedule => t.schedule = s.schedule
  | .idleDelta => t.idleDelta = s.idleDelta
  | .response => t.response = s.response

/-- From `s` to `t` every part but the listed ones is unchanged. -/
def KeepsBut (changed : List Part) (s t : State) : Prop := ∀ p, p ∉ changed → Part.Same s t p

/-- From `s` to `t` every general register but the listed ones is unchanged. -/
def RegsBut (changed : List RegNum) (s t : State) : Prop := ∀ r, r ∉ changed → t.v r = s.v r

/-- The instruction answers a state in which `V[x]` is the given byte and everything else is as before. -/
def WritesOnly (i : Instr) (s : State) (x : RegNum) (value : State → Prop) : Prop :=
  ∃ t, exec i s = .next t ∧ value t ∧ RegsBut [x] s t ∧ KeepsBut [.V] s t

/-- The instruction answers a state in which `pc` is as given and everything else is as before. -/
def JumpsTo (i : Instr) (s : State) (target : Word) : Prop :=
  ∃ t, exec i s = .next t ∧ t.pc = target ∧ KeepsBut [.pc] s t

/-! ## Encodings -/

/-- The word of the number `n` is an encoding of `i`. -/
def DecodesTo (n : Nat) (i : Instr) : Prop := decode (BitVec.ofNat 16 n) = some i

/-- The word of the number `n` is illegal. -/
def IsIllegal (n : Nat) : Prop := decode (BitVec.ofNat 16 n) = none

/-! ## Steps -/

/-- The next transaction of `s` is a TICK that breaks no host duty; `s'` is `s` without it. The TICK is the first
of the schedule or, with nothing scheduled, the model's idle TICK (DESIGN CHOICE: log entry 2). -/
def NextIsTick (s s' : State) (delta : Duration) (entropy : Byte) : Prop :=
  s.takeTransaction = (.tick delta entropy, s') ∧ 0 ≤ delta

/-- The legal Configurations, the bounds of rule R281 as numbers: the spec's own choice (decision D17, log
entry 6). -/
def LegalConfiguration (c : Configuration) : Prop :=
  1 ≤ c.ips ∧ c.fontStart.toNat ≤ 0xFB0 ∧ c.programStart.toNat ≤ 0xFFE

/-- The transaction breaks a duty of rule R258 under the Configuration `c` in force. -/
def BreaksDuty (c : Configuration) : Transaction → Prop
  | .reset config => ¬LegalConfiguration config
  | .load bytes => 4096 < c.programStart.toNat + bytes.length
  | .tick delta _ => delta < 0
  | .press _ => False
  | .release _ => False
  | .sound => False
  | .fb => False

/-- The CPU Timer of `s` fires for `delta` (rules R244, R245). That durations are exact rationals is the spec's own
choice (decision D15, log entry 11). -/
def CpuFires (s : State) (delta : Duration) : Prop := 1 / (s.cfg.ips : Rat) ≤ s.tcpuAcc + delta

/-- The two bytes at `pc` lie inside memory and encode `i`. -/
def EncodedAtPc (s : State) (i : Instr) : Prop :=
  s.pc.toNat + 1 ≤ 0xFFF ∧ decode (wordOfBytes (s.byteAt s.pc.toNat) (s.byteAt (s.pc.toNat + 1))) = some i

/-- The state in which a TICK executes its instruction: the latch captured, the counters decremented if
`T60` fired, `TCPU.acc` zero, `pc` advanced (rules R121 to R125). -/
def executeState (s' : State) (delta : Duration) (entropy : Byte) : State :=
  let u := ((s'.captureLatch entropy).tickT60 delta).setTcpuAcc 0
  u.setPc (u.pc + 2)

/-! ## Sprites -/

/-- The sprite of N rows at `I`, drawn at column `x0` and row `y0`, sets the pixel at row `y`, column `x`:
row `y - y0` of the sprite has the bit of column `x - x0`, bit 7 leftmost, and the pixel is on the screen
(rule R201). -/
def SpriteSets (s : State) (x0 y0 n y x : Nat) : Prop :=
  y0 ≤ y ∧ y < y0 + n ∧ y < 32 ∧ x0 ≤ x ∧ x < x0 + 8 ∧ x < 64 ∧
    (s.byteAt (s.I.toNat + (y - y0))).getLsbD (7 - (x - x0)) = true

/-- Every sprite row that is on the screen lies inside memory. -/
def SpriteInMemory (s : State) (y0 n : Nat) : Prop :=
  ∀ k, k < n → y0 + k < 32 → s.I.toNat + k ≤ 0xFFF

/-- The start column of DXYN. -/
def startX (s : State) (x : RegNum) : Nat := (s.v x).toNat % 64

/-- The start row of DXYN. -/
def startY (s : State) (y : RegNum) : Nat := (s.v y).toNat % 32

/-! ## Tables over the instructions -/

/-- The parts of the state an instruction may write: the "written by" column of rule R20, read by
instruction, with rule R25 for `pc` and rule R255 for the entropy draws. A fault record is written by 00EE
alone (rule R232). -/
def writesParts : Instr → List Part
  | .cls => [.fb]
  | .ret => [.stack, .pc, .response]
  | .jpAddr _ => [.pc]
  | .callAddr _ => [.stack, .pc]
  | .seVxByte _ _ => [.pc]
  | .sneVxByte _ _ => [.pc]
  | .seVxVy _ _ => [.pc]
  | .ldVxByte _ _ => [.V]
  | .addVxByte _ _ => [.V]
  | .ldVxVy _ _ => [.V]
  | .orVxVy _ _ => [.V]
  | .andVxVy _ _ => [.V]
  | .xorVxVy _ _ => [.V]
  | .addVxVy _ _ => [.V]
  | .subVxVy _ _ => [.V]
  | .shrVxVy _ _ => [.V]
  | .subnVxVy _ _ => [.V]
  | .shlVxVy _ _ => [.V]
  | .sneVxVy _ _ => [.pc]
  | .ldIAddr _ => [.I]
  | .jpV0Addr _ => [.pc]
  | .rndVxByte _ _ => [.V, .draws]
  | .drwVxVyNibble _ _ _ => [.fb, .V]
  | .skpVx _ => [.pc]
  | .sknpVx _ => [.pc]
  | .ldVxDT _ => [.V]
  | .ldVxK _ => [.V, .pc]
  | .ldDTVx _ => [.dt]
  | .ldSTVx _ => [.st]
  | .addIVx _ => [.I, .V]
  | .ldFVx _ => [.I]
  | .ldBVx _ => [.mem]
  | .ldMemVx _ => [.mem, .I]
  | .ldVxMem _ => [.V, .I]

/-- The registers an instruction may write: its destination, and VF for the four instructions of rule R22. -/
def WritesRegister (i : Instr) (r : RegNum) : Prop :=
  match i with
  | .ldVxByte x _ => r = x
  | .addVxByte x _ => r = x
  | .ldVxVy x _ => r = x
  | .orVxVy x _ => r = x
  | .andVxVy x _ => r = x
  | .xorVxVy x _ => r = x
  | .addVxVy x _ => r = x
  | .subVxVy x _ => r = x
  | .subnVxVy x _ => r = x
  | .shrVxVy x _ => r = x ∨ r = vF
  | .shlVxVy x _ => r = x ∨ r = vF
  | .rndVxByte x _ => r = x
  | .drwVxVyNibble _ _ _ => r = vF
  | .ldVxDT x => r = x
  | .ldVxK x => r = x
  | .addIVx _ => r = vF
  | .ldVxMem x => r ≤ x
  | .cls => False
  | .ret => False
  | .jpAddr _ => False
  | .callAddr _ => False
  | .seVxByte _ _ => False
  | .sneVxByte _ _ => False
  | .seVxVy _ _ => False
  | .sneVxVy _ _ => False
  | .ldIAddr _ => False
  | .jpV0Addr _ => False
  | .skpVx _ => False
  | .sknpVx _ => False
  | .ldDTVx _ => False
  | .ldSTVx _ => False
  | .ldFVx _ => False
  | .ldBVx _ => False
  | .ldMemVx _ => False

/-- When an instruction aborts, and with which reason (rule R239). -/
def Aborts (i : Instr) (s : State) (f : Fault) : Prop :=
  match i with
  | .callAddr _ => f = .stackOverflow ∧ s.sp = 1024
  | .ldBVx _ => f = .outOfBounds ∧ 0xFFF < s.I.toNat + 2
  | .ldMemVx x => f = .outOfBounds ∧ 0xFFF < s.I.toNat + x.val
  | .ldVxMem x => f = .outOfBounds ∧ 0xFFF < s.I.toNat + x.val
  | .drwVxVyNibble _ y n => f = .outOfBounds ∧ ¬SpriteInMemory s (startY s y) n.toNat
  | _ => False

/-- The illegal words of rule R97, by family. -/
def Illegal (w : Word) : Prop :=
  (n0 w = 0x0 ∧ w ≠ 0x00E0 ∧ w ≠ 0x00EE) ∨
  (n0 w = 0x5 ∧ n3 w ≠ 0x0) ∨
  (n0 w = 0x8 ∧ (n3 w).toNat ∈ [0x8, 0x9, 0xA, 0xB, 0xC, 0xD, 0xF]) ∨
  (n0 w = 0x9 ∧ n3 w ≠ 0x0) ∨
  (n0 w = 0xE ∧ fieldNN w ≠ 0x9E ∧ fieldNN w ≠ 0xA1) ∨
  (n0 w = 0xF ∧ (fieldNN w).toNat ∉ [0x07, 0x0A, 0x15, 0x18, 0x1E, 0x29, 0x33, 0x55, 0x65])

end Sys2Proof.Claims

open Sys2Proof Sys2Proof.Machine Sys2Proof.Claims

/-! ## Encoding -/

/-- A word of each format, written out from the patterns of rule R96, decodes to its instruction. -/
def Obligations.SampleWordsDecode : Prop :=
  decode 0b0000000011100000 = some .cls ∧
  decode 0b0000000011101110 = some .ret ∧
  decode 0b0001101010111100 = some (.jpAddr 0xABC) ∧
  decode 0b0011010101000010 = some (.seVxByte 5 0x42) ∧
  decode 0b1000101010110110 = some (.shrVxVy 10 11) ∧
  decode 0b1101000100100011 = some (.drwVxVyNibble 1 2 3) ∧
  decode 0b1110000110011110 = some (.skpVx 1) ∧
  decode 0b1111111001100101 = some (.ldVxMem 14) ∧
  decode 0b0101000100100001 = none

/-- Every instruction's word decodes to it, and its two bytes in front of any others decode to it and leave
the others (rules R90, R92, R96). -/
def Obligations.DecodeOfEncodeIsTheInstruction : Prop :=
  ∀ (i : Instr) (rest : List Byte),
    decode (encode i) = some i ∧ decodeBytes (encodeBytes i ++ rest) = .instr i rest

/-- Each pattern of rule R96, its fields at the places of rule R92, decodes to its instruction with every
operand. -/
def Obligations.EveryPatternDecodesWithItsOperands : Prop :=
  ∀ (x y : RegNum) (nn : Byte) (nnn : BitVec 12) (n : Nibble),
    let a := nnn.toNat
    let b := x.val * 256 + nn.toNat
    let xy := x.val * 256 + y.val * 16
    let xf := x.val * 256
    (DecodesTo 0x00E0 .cls ∧ DecodesTo 0x00EE .ret ∧
      DecodesTo (0x1000 + a) (.jpAddr nnn) ∧ DecodesTo (0x2000 + a) (.callAddr nnn) ∧
      DecodesTo (0xA000 + a) (.ldIAddr nnn) ∧ DecodesTo (0xB000 + a) (.jpV0Addr nnn)) ∧
    (DecodesTo (0x3000 + b) (.seVxByte x nn) ∧ DecodesTo (0x4000 + b) (.sneVxByte x nn) ∧
      DecodesTo (0x6000 + b) (.ldVxByte x nn) ∧ DecodesTo (0x7000 + b) (.addVxByte x nn) ∧
      DecodesTo (0xC000 + b) (.rndVxByte x nn)) ∧
    (DecodesTo (0x5000 + xy) (.seVxVy x y) ∧ DecodesTo (0x8000 + xy) (.ldVxVy x y) ∧
      DecodesTo (0x8001 + xy) (.orVxVy x y) ∧ DecodesTo (0x8002 + xy) (.andVxVy x y) ∧
      DecodesTo (0x8003 + xy) (.xorVxVy x y) ∧ DecodesTo (0x8004 + xy) (.addVxVy x y) ∧
      DecodesTo (0x8005 + xy) (.subVxVy x y) ∧ DecodesTo (0x8006 + xy) (.shrVxVy x y) ∧
      DecodesTo (0x8007 + xy) (.subnVxVy x y) ∧ DecodesTo (0x800E + xy) (.shlVxVy x y) ∧
      DecodesTo (0x9000 + xy) (.sneVxVy x y) ∧ DecodesTo (0xD000 + xy + n.toNat) (.drwVxVyNibble x y n)) ∧
    (DecodesTo (0xE09E + xf) (.skpVx x) ∧ DecodesTo (0xE0A1 + xf) (.sknpVx x) ∧
      DecodesTo (0xF007 + xf) (.ldVxDT x) ∧ DecodesTo (0xF00A + xf) (.ldVxK x) ∧
      DecodesTo (0xF015 + xf) (.ldDTVx x) ∧ DecodesTo (0xF018 + xf) (.ldSTVx x) ∧
      DecodesTo (0xF01E + xf) (.addIVx x) ∧ DecodesTo (0xF029 + xf) (.ldFVx x) ∧
      DecodesTo (0xF033 + xf) (.ldBVx x) ∧ DecodesTo (0xF055 + xf) (.ldMemVx x) ∧
      DecodesTo (0xF065 + xf) (.ldVxMem x))

/-- A word that decodes is the word of its instruction: no bit of a legal word is ignored. -/
def Obligations.DecodedWordIsTheInstructionsWord : Prop :=
  ∀ (w : Word) (i : Instr), decode w = some i → encode i = w

/-- The table of rule R96: 34 rows; a word is an instruction of a row exactly when `w & mask = match`; no
word fits two rows. -/
def Obligations.MaskAndMatchSelectTheInstruction : Prop :=
  opcodeTable.length = 34 ∧
  (∀ (w : Word) (r : Row), r ∈ opcodeTable → (w &&& r.mask = r.value ↔ ∃ i, decode w = some i ∧ i.row = r)) ∧
  ∀ (w : Word) (r q : Row), r ∈ opcodeTable → q ∈ opcodeTable →
    w &&& r.mask = r.value → w &&& q.mask = q.value → r = q

/-- The words that decode to nothing are those of the table of rule R97. -/
def Obligations.IllegalWordsAreTheTablesGaps : Prop := ∀ w : Word, decode w = none ↔ Illegal w

/-! ## Register load, arithmetic, logic, shift, random -/

/-- 6XNN and 8XY0 with their encodings (rules R160, R162). -/
def Obligations.LoadImmediateAndCopyWriteVx : Prop :=
  ∀ (s : State) (x y : RegNum) (nn : Byte),
    WritesOnly (.ldVxByte x nn) s x (fun t => t.v x = nn) ∧
    WritesOnly (.ldVxVy x y) s x (fun t => t.v x = s.v y) ∧
    DecodesTo (0x6000 + x.val * 256 + nn.toNat) (.ldVxByte x nn) ∧
    DecodesTo (0x8000 + x.val * 256 + y.val * 16) (.ldVxVy x y)

/-- 7XNN, 8XY4, 8XY5 with their encodings: modulo 256, and no flag (rules R161, R166, R167). VF is unmodified unless X = 0xF, by
the frame. -/
def Obligations.AddAndSubtractWrapAndLeaveVf : Prop :=
  ∀ (s : State) (x y : RegNum) (nn : Byte),
    WritesOnly (.addVxByte x nn) s x (fun t => (t.v x).toNat = ((s.v x).toNat + nn.toNat) % 256) ∧
    WritesOnly (.addVxVy x y) s x (fun t => (t.v x).toNat = ((s.v x).toNat + (s.v y).toNat) % 256) ∧
    WritesOnly (.subVxVy x y) s x (fun t => (t.v x).toNat = ((s.v x).toNat + 256 - (s.v y).toNat) % 256) ∧
    DecodesTo (0x7000 + x.val * 256 + nn.toNat) (.addVxByte x nn) ∧
    DecodesTo (0x8004 + x.val * 256 + y.val * 16) (.addVxVy x y) ∧
    DecodesTo (0x8005 + x.val * 256 + y.val * 16) (.subVxVy x y)

/-- 8XY1, 8XY2, 8XY3, 8XY7: bit by bit and modulo 256, VF unmodified unless X = 0xF. That these four leave
VF alone is the spec's own choice (decision D10, log entry 10). -/
def Obligations.LogicAndReverseSubtractLeaveVf : Prop :=
  ∀ (s : State) (x y : RegNum),
    WritesOnly (.orVxVy x y) s x
      (fun t => ∀ k, (t.v x).getLsbD k = ((s.v x).getLsbD k || (s.v y).getLsbD k)) ∧
    WritesOnly (.andVxVy x y) s x
      (fun t => ∀ k, (t.v x).getLsbD k = ((s.v x).getLsbD k && (s.v y).getLsbD k)) ∧
    WritesOnly (.xorVxVy x y) s x
      (fun t => ∀ k, (t.v x).getLsbD k = ((s.v x).getLsbD k ^^ (s.v y).getLsbD k)) ∧
    WritesOnly (.subnVxVy x y) s x (fun t => (t.v x).toNat = ((s.v y).toNat + 256 - (s.v x).toNat) % 256)

/-- 8XY6 with its corner cases (a) to (e). That VF is written first is the spec's own choice (decision D11,
log entry 10). -/
def Obligations.ShiftRightHalvesAndFlagsOldVx : Prop :=
  ∀ (s : State) (x y : RegNum), ∃ t, exec (.shrVxVy x y) s = .next t ∧
    RegsBut [x, vF] s t ∧ KeepsBut [.V] s t ∧
    (x ≠ vF → (t.v vF).toNat = (s.v x).toNat % 2) ∧
    (x ≠ vF → s.cfg.copyVyWhileShifting = false → (t.v x).toNat = (s.v x).toNat / 2) ∧
    (x ≠ vF → s.cfg.copyVyWhileShifting = true → y ≠ vF → (t.v x).toNat = (s.v y).toNat / 2) ∧
    (x ≠ vF → s.cfg.copyVyWhileShifting = true → y = vF → t.v x = 0) ∧
    (x = vF → s.cfg.copyVyWhileShifting = false → t.v vF = 0) ∧
    (x = vF → s.cfg.copyVyWhileShifting = true → y ≠ vF → (t.v vF).toNat = (s.v y).toNat / 2) ∧
    (x = vF → s.cfg.copyVyWhileShifting = true → y = vF → t.v vF = 0)

/-- 8XYE with its corner cases (a) to (e). That VF is written first is the spec's own choice (decision D11,
log entry 10). -/
def Obligations.ShiftLeftDoublesAndFlagsOldVx : Prop :=
  ∀ (s : State) (x y : RegNum), ∃ t, exec (.shlVxVy x y) s = .next t ∧
    RegsBut [x, vF] s t ∧ KeepsBut [.V] s t ∧
    (x ≠ vF → (t.v vF).toNat = if 128 ≤ (s.v x).toNat then 128 else 0) ∧
    (x ≠ vF → s.cfg.copyVyWhileShifting = false → (t.v x).toNat = (s.v x).toNat * 2 % 256) ∧
    (x ≠ vF → s.cfg.copyVyWhileShifting = true → y ≠ vF → (t.v x).toNat = (s.v y).toNat * 2 % 256) ∧
    (x ≠ vF → s.cfg.copyVyWhileShifting = true → y = vF → t.v x = 0) ∧
    (x = vF → s.cfg.copyVyWhileShifting = false → t.v vF = 0) ∧
    (x = vF → s.cfg.copyVyWhileShifting = true → y ≠ vF → (t.v vF).toNat = (s.v y).toNat * 2 % 256) ∧
    (x = vF → s.cfg.copyVyWhileShifting = true → y = vF → t.v vF = 0)

/-- CXNN: one draw, whatever byte it is, masked; no other instruction draws (rule R171). -/
def Obligations.RandomMasksExactlyOneDraw : Prop :=
  (∀ (s : State) (x : RegNum) (nn : Byte), ∃ t, exec (.rndVxByte x nn) s = .next t ∧
    (∀ k, (t.v x).getLsbD k = (s.tickIn.entropy.getLsbD k && nn.getLsbD k)) ∧ t.draws = s.draws + 1 ∧
    RegsBut [x] s t ∧ KeepsBut [.V, .draws] s t) ∧
  ∀ (i : Instr) (s t : State), exec i s = .next t → (∀ x nn, i ≠ .rndVxByte x nn) → t.draws = s.draws

/-- The entropy source is called in a step only when the word at `pc` is CXNN, and then once (rules R171,
R255). -/
def Obligations.StepDrawsOnlyForRandom : Prop :=
  ∀ s t : State, step s = .next t → t.draws ≠ s.draws →
    t.draws = s.draws + 1 ∧ ∃ x nn, EncodedAtPc s (.rndVxByte x nn)

/-! ## Skips and control transfer -/

/-- 3XNN, 4XNN, 5XY0, 9XY0 with their encodings, and the illegal neighbours of the last two (rules R150 to
R153). -/
def Obligations.RegisterSkipsAddTwoWhenTheConditionHolds : Prop :=
  ∀ (s : State) (x y : RegNum) (nn : Byte),
    JumpsTo (.seVxByte x nn) s (if s.v x = nn then s.pc + 2 else s.pc) ∧
    JumpsTo (.sneVxByte x nn) s (if s.v x = nn then s.pc else s.pc + 2) ∧
    JumpsTo (.seVxVy x y) s (if s.v x = s.v y then s.pc + 2 else s.pc) ∧
    JumpsTo (.sneVxVy x y) s (if s.v x = s.v y then s.pc else s.pc + 2) ∧
    DecodesTo (0x3000 + x.val * 256 + nn.toNat) (.seVxByte x nn) ∧
    DecodesTo (0x4000 + x.val * 256 + nn.toNat) (.sneVxByte x nn) ∧
    DecodesTo (0x5000 + x.val * 256 + y.val * 16) (.seVxVy x y) ∧
    DecodesTo (0x9000 + x.val * 256 + y.val * 16) (.sneVxVy x y) ∧
    ∀ n : Nibble, n ≠ 0 → IsIllegal (0x5000 + x.val * 256 + y.val * 16 + n.toNat) ∧
      IsIllegal (0x9000 + x.val * 256 + y.val * 16 + n.toNat)

/-- 1NNN and BNNN: the targets as numbers, the sum not reduced modulo 4096 (rules R141, R143). -/
def Obligations.JumpsWriteTheTarget : Prop :=
  ∀ (s : State) (nnn : BitVec 12),
    (∃ t, exec (.jpAddr nnn) s = .next t ∧ t.pc.toNat = nnn.toNat ∧ KeepsBut [.pc] s t) ∧
    ∃ t, exec (.jpV0Addr nnn) s = .next t ∧ t.pc.toNat = nnn.toNat + (s.v 0).toNat ∧ KeepsBut [.pc] s t

/-- 2NNN: pushes the advanced `pc` where there is room; with 1024 calls pending it aborts, which is the
spec's own choice (decision D6, log entry 5), as is the number (decision D7, log entry 12). -/
def Obligations.CallPushesTheReturnAddress : Prop :=
  ∀ (s : State) (nnn : BitVec 12),
    (s.sp < 1024 → ∃ t, exec (.callAddr nnn) s = .next t ∧ t.pc.toNat = nnn.toNat ∧ t.sp = s.sp + 1 ∧
      t.stackEntry s.sp = some s.pc ∧ (∀ k, k < s.sp → t.stackEntry k = s.stackEntry k) ∧
      KeepsBut [.stack, .pc] s t) ∧
    (s.sp = 1024 → exec (.callAddr nnn) s = .fault .stackOverflow)

/-- 00EE: pops the last entry into `pc`; on an empty stack it raises `PopEmptyStack` with its own address and
nibbles, and changes nothing (rule R140). -/
def Obligations.ReturnPopsOrRaisesPopEmptyStack : Prop :=
  ∀ s : State,
    (s.sp ≠ 0 → ∃ t, exec .ret s = .next t ∧ s.stackEntry (s.sp - 1) = some t.pc ∧ t.sp = s.sp - 1 ∧
      (∀ k, k < t.sp → t.stackEntry k = s.stackEntry k) ∧ KeepsBut [.stack, .pc] s t) ∧
    (s.sp = 0 → ∃ t, exec .ret s = .next t ∧
      t.response = .fault ⟨.popEmptyStack, s.pc - 2, 0x0, 0x0, 0xE, 0xE⟩ ∧ KeepsBut [.response] s t)

/-- "`2NNN` (call) then `00EE` (return) restores `pc` to the instruction following the original `2NNN`", and
the call stack with it, whatever ran in between, if it left the stack as the call did. -/
def Obligations.CallThenReturnRestoresPcAndStack : Prop :=
  ∀ (s t u : State) (nnn : BitVec 12), exec (.callAddr nnn) s = .next t → u.stack = t.stack →
    ∃ z, exec .ret u = .next z ∧ z.pc = s.pc ∧ z.stack = s.stack

/-! ## Index register and memory -/

/-- ANNN with its encoding (rule R180). -/
def Obligations.LoadIndexWritesTheAddress : Prop :=
  ∀ (s : State) (nnn : BitVec 12), DecodesTo (0xA000 + nnn.toNat) (.ldIAddr nnn) ∧
    ∃ t, exec (.ldIAddr nnn) s = .next t ∧ t.I.toNat = nnn.toNat ∧ KeepsBut [.I] s t

/-- FX1E: the sum modulo 65536, and VF := 1 only under the quirk above 0x0FFF. The wrap and the reading of the
quirk are the spec's own choices (decisions D8 and D9, log entry 10). -/
def Obligations.AddIndexWrapsAndFlagsOverflow : Prop :=
  ∀ (s : State) (x : RegNum), ∃ t, exec (.addIVx x) s = .next t ∧
    t.I.toNat = (s.I.toNat + (s.v x).toNat) % 65536 ∧
    (s.cfg.indexOverflowFlag = true ∧ 0x0FFF < t.I.toNat → t.v vF = 1) ∧
    (¬(s.cfg.indexOverflowFlag = true ∧ 0x0FFF < t.I.toNat) → t.v vF = s.v vF) ∧
    RegsBut [vF] s t ∧ KeepsBut [.I, .V] s t

/-- FX29: the glyph address, which a legal Configuration keeps from truncating. The glyph size is the spec's
own derivation (decision D16, log entry 7), the legal Configurations are its choice (decision D17, log entry
6). -/
def Obligations.GlyphAddressIsFiveBytesPerDigit : Prop :=
  ∀ (s : State) (x : RegNum), ∃ t, exec (.ldFVx x) s = .next t ∧
    t.I.toNat = (s.cfg.fontStart.toNat + (s.v x).toNat % 16 * 5) % 65536 ∧
    (s.cfg.legal = true → t.I.toNat = s.cfg.fontStart.toNat + (s.v x).toNat % 16 * 5 ∧ t.I.toNat ≤ 0xFFB) ∧
    KeepsBut [.I] s t

/-- FX33: the three digits at `I`, `I + 1`, `I + 2`, every other byte as before; above 0xFFF it aborts, which
is the spec's own choice (decision D5, log entry 5). -/
def Obligations.BcdStoresTheThreeDigits : Prop :=
  ∀ (s : State) (x : RegNum), s.mem.wf s.cfg = true →
    (s.I.toNat + 2 ≤ 0xFFF → ∃ t, exec (.ldBVx x) s = .next t ∧
      (t.byteAt (s.dataAddr 0)).toNat = (s.v x).toNat / 100 ∧
      (t.byteAt (s.dataAddr 1)).toNat = (s.v x).toNat / 10 % 10 ∧
      (t.byteAt (s.dataAddr 2)).toNat = (s.v x).toNat % 10 ∧
      (∀ a, a < s.dataAddr 0 ∨ s.dataAddr 2 < a → t.byteAt a = s.byteAt a) ∧ KeepsBut [.mem] s t) ∧
    (0xFFF < s.I.toNat + 2 → exec (.ldBVx x) s = .fault .outOfBounds)

/-- FX55: V0 to VX at rising addresses from `I`, every other byte as before, and the quirk's increment; above
0xFFF it aborts, which is the spec's own choice (decision D5, log entry 5). -/
def Obligations.StoreRegistersFromIndexUpward : Prop :=
  ∀ (s : State) (x : RegNum), s.mem.wf s.cfg = true →
    (s.I.toNat + x.val ≤ 0xFFF → ∃ t, exec (.ldMemVx x) s = .next t ∧
      (∀ r : RegNum, r ≤ x → t.byteAt (s.dataAddr r.val) = s.v r) ∧
      (∀ a, a < s.dataAddr 0 ∨ s.dataAddr x.val < a → t.byteAt a = s.byteAt a) ∧
      (s.cfg.incrementIndexDuringSaveLoad = true → t.I.toNat = s.I.toNat + x.val + 1) ∧
      (s.cfg.incrementIndexDuringSaveLoad = false → t.I = s.I) ∧ KeepsBut [.mem, .I] s t) ∧
    (0xFFF < s.I.toNat + x.val → exec (.ldMemVx x) s = .fault .outOfBounds)

/-- FX65: V0 to VX from rising addresses from `I`, the registers above VX as before, and the quirk's
increment. That the quirk governs FX65 too is an inference R185 marks as its own: "The index quirk applies in
the same way: its name is "increment index during save/load" [derived: from the flag's name and the word
"inverse"]". Above 0xFFF it aborts, which is the spec's own choice (decision D5, log entry 5). -/
def Obligations.LoadRegistersFromIndexUpward : Prop :=
  ∀ (s : State) (x : RegNum),
    (s.I.toNat + x.val ≤ 0xFFF → ∃ t, exec (.ldVxMem x) s = .next t ∧
      (∀ r : RegNum, r ≤ x → t.v r = s.byteAt (s.dataAddr r.val)) ∧
      (∀ r : RegNum, x < r → t.v r = s.v r) ∧
      (s.cfg.incrementIndexDuringSaveLoad = true → t.I.toNat = s.I.toNat + x.val + 1) ∧
      (s.cfg.incrementIndexDuringSaveLoad = false → t.I = s.I) ∧ KeepsBut [.V, .I] s t) ∧
    (0xFFF < s.I.toNat + x.val → exec (.ldVxMem x) s = .fault .outOfBounds)

/-- What a store writes, the next fetch reads: FX33 at `I = pc` replaces the word at `pc` by the hundreds and
the tens (rule R72). -/
def Obligations.StoredBytesAreFetched : Prop :=
  ∀ (s t : State) (x : RegNum), s.mem.wf s.cfg = true → s.I = s.pc → exec (.ldBVx x) s = .next t →
    ∃ w, t.fetch = some w ∧ w.toNat = (s.v x).toNat / 100 * 256 + (s.v x).toNat / 10 % 10

/-! ## Display -/

/-- 00E0 with its encoding (rule R200). -/
def Obligations.ClearTurnsEveryPixelOff : Prop :=
  DecodesTo 0x00E0 .cls ∧ ∀ s : State, ∃ t, exec .cls s = .next t ∧
    (∀ y x, y < 32 → x < 64 → pixel t.fb y x = false) ∧ KeepsBut [.fb] s t

/-- DXYN in closed form: every pixel is exclusive-ored with the clipped sprite at the start coordinates, read
before VF is written; VF is 1 exactly when a lit pixel was turned off. A row on the screen above 0xFFF
aborts. The abort, the order, the bit order and the unread clipped rows are the spec's own choices (decisions
D5, D12, D13, D14, log entries 5, 9 and 10). -/
def Obligations.DrawXorsTheClippedSprite : Prop :=
  ∀ (s : State) (x y : RegNum) (n : Nibble),
    (SpriteInMemory s (startY s y) n.toNat → ∃ t, exec (.drwVxVyNibble x y n) s = .next t ∧
      (∀ y' x', pixel t.fb y' x' = true ↔
        Xor (pixel s.fb y' x' = true) (SpriteSets s (startX s x) (startY s y) n.toNat y' x')) ∧
      ((∃ y' x', pixel s.fb y' x' = true ∧ SpriteSets s (startX s x) (startY s y) n.toNat y' x') →
        t.v vF = 1) ∧
      ((¬∃ y' x', pixel s.fb y' x' = true ∧ SpriteSets s (startX s x) (startY s y) n.toNat y' x') →
        t.v vF = 0) ∧
      RegsBut [vF] s t ∧ KeepsBut [.V, .fb] s t) ∧
    (¬SpriteInMemory s (startY s y) n.toNat → exec (.drwVxVyNibble x y n) s = .fault .outOfBounds)

/-- Corner case (g) of DXYN: drawing the same sprite twice restores the framebuffer; the second draw reports a
collision exactly when it finds a pixel it sets lit, which on a clear framebuffer is when the visible part of
the sprite has a set bit. Which pixel a sprite bit sets is PRESUMED (the bit order of decision D13, log entry 9);
that clipped rows are not read is the spec's own choice (decision D14, log entry 10). -/
def Obligations.DrawingTwiceRestoresTheFramebuffer : Prop :=
  ∀ (s t : State) (x y : RegNum) (n : Nibble), x ≠ vF → y ≠ vF → exec (.drwVxVyNibble x y n) s = .next t →
    ∃ u, exec (.drwVxVyNibble x y n) t = .next u ∧ u.fb = s.fb ∧
      (u.v vF = 1 ↔ (∃ y' x', SpriteSets s (startX s x) (startY s y) n.toNat y' x' ∧
        pixel t.fb y' x' = true)) ∧
      ((∀ y' x', pixel s.fb y' x' = false) →
        (u.v vF = 1 ↔ ∃ y' x', SpriteSets s (startX s x) (startY s y) n.toNat y' x'))

/-! ## Keypad and timers -/

/-- EX9E and EXA1 with their encodings: the key is the whole byte; 16 and above never skips (rules R210,
R211). -/
def Obligations.KeySkipsTestTheNamedKey : Prop :=
  ∀ (s : State) (x : RegNum),
    (∀ k : Key, (s.v x).toNat = k.val →
      JumpsTo (.skpVx x) s (if s.keys[k.val] = true then s.pc + 2 else s.pc) ∧
      JumpsTo (.sknpVx x) s (if s.keys[k.val] = false then s.pc + 2 else s.pc)) ∧
    (16 ≤ (s.v x).toNat → JumpsTo (.skpVx x) s s.pc ∧ JumpsTo (.sknpVx x) s s.pc) ∧
    DecodesTo (0xE09E + x.val * 256) (.skpVx x) ∧ DecodesTo (0xE0A1 + x.val * 256) (.sknpVx x)

/-- FX0A: the key captured by this TICK, or the rewind (rule R212). -/
def Obligations.KeyWaitTakesTheCapturedKeyOrRewinds : Prop :=
  ∀ (s : State) (x : RegNum),
    (∀ k : Key, s.tickIn.key = some k → WritesOnly (.ldVxK x) s x (fun t => (t.v x).toNat = k.val)) ∧
    (s.tickIn.key = none → JumpsTo (.ldVxK x) s (s.pc - 2))

/-- FX07, FX15, FX18 (rules R220, R221, R222). -/
def Obligations.TimerAccessMovesTheCounters : Prop :=
  ∀ (s : State) (x : RegNum),
    WritesOnly (.ldVxDT x) s x (fun t => t.v x = s.dt) ∧
    (∃ t, exec (.ldDTVx x) s = .next t ∧ t.dt = s.v x ∧ KeepsBut [.dt] s t) ∧
    (∃ t, exec (.ldSTVx x) s = .next t ∧ t.st = s.v x ∧ KeepsBut [.st] s t)

/-- "`st` ... is not readable by any instruction" (rule R26): two runs of one instruction that differ only in
`st` differ only in `st` afterwards, and not at all after FX18. -/
def Obligations.NoInstructionReadsTheSoundTimer : Prop :=
  ∀ (i : Instr) (s : State) (b : Byte),
    (∀ t, exec i s = .next t →
      exec i (s.setSt b) = .next (match i with | .ldSTVx _ => t | _ => t.setSt b)) ∧
    (∀ f, exec i s = .fault f → exec i (s.setSt b) = .fault f)

/-! ## All instructions -/

/-- An instruction writes only the parts and the registers of its row of rule R20. That 8XY1, 8XY2, 8XY3 and 8XY7
do not write VF is the spec's own choice (decision D10, log entry 10). -/
def Obligations.InstructionsWriteOnlyTheirState : Prop :=
  ∀ (i : Instr) (s t : State), exec i s = .next t →
    KeepsBut (writesParts i) s t ∧ ∀ r, ¬WritesRegister i r → t.v r = s.v r

/-- An instruction aborts exactly in the cases of rule R239, and is never refused; in every other case it
answers a next state. The aborts are the spec's own device (decisions D4 to D6, log entry 5); that DXYN counts
only the rows on the screen is its choice (decision D14, log entry 10), and so is the capacity of 1024 entries
(decision D7, log entry 12). -/
def Obligations.InstructionsAbortExactlyOutOfBoundsOrOnAFullStack : Prop :=
  ∀ (i : Instr) (s : State),
    (∀ f, exec i s = .fault f ↔ Aborts i s f) ∧ (∀ r, exec i s ≠ .refused r) ∧
    ((∀ f, ¬Aborts i s f) → ∃ t, exec i s = .next t)

/-! ## The TICK -/

/-- A word read puts the byte at the lower address in the high half, and `fetch` is the word at `pc`, at any
parity (rule R62). -/
def Obligations.FetchIsBigEndian : Prop :=
  (∀ (s : State) (a : Nat), a + 1 ≤ 0xFFF → ∃ w, s.memReadWord a = some w ∧
    w.toNat = (s.byteAt a).toNat * 256 + (s.byteAt (a + 1)).toNat ∧
    (n0 w).toNat = (s.byteAt a).toNat / 16 ∧ (n1 w).toNat = (s.byteAt a).toNat % 16 ∧
    (n2 w).toNat = (s.byteAt (a + 1)).toNat / 16 ∧ (n3 w).toNat = (s.byteAt (a + 1)).toNat % 16) ∧
  ∀ s : State, s.fetch = s.memReadWord s.pc.toNat

/-- The Timer: "reaches or exceeds", zero on a fire, the sum otherwise, and below the period after every check
(rule R244). That durations are exact rationals is the spec's own choice (decision D15, log entry 11). -/
def Obligations.TimerFiresOnceAndDropsTheExcess : Prop :=
  ∀ p a d : Duration,
    (p ≤ a + d → timerCheck p a d = (true, 0)) ∧ (a + d < p → timerCheck p a d = (false, a + d)) ∧
    (0 < p → 0 ≤ a → 0 ≤ d → 0 ≤ (timerCheck p a d).2 ∧ (timerCheck p a d).2 < p)

/-- Step 2 of a TICK: one fire decrements each counter by one, floored at zero, however large `delta` is
(rule R246). When `T60` fires and what its accumulator becomes are R244's and R245's; that durations are exact
rationals and the time-unit is one second is the spec's own choice (decision D15, log entry 11). -/
def Obligations.CountersCountDownToZeroOncePerFire : Prop :=
  ∀ (s : State) (d : Duration),
    KeepsBut [.t60Acc, .dt, .st] s (s.tickT60 d) ∧
    (1 / 60 ≤ s.t60Acc + d → (s.tickT60 d).t60Acc = 0 ∧ (s.tickT60 d).dt.toNat = s.dt.toNat - 1 ∧
      (s.tickT60 d).st.toNat = s.st.toNat - 1) ∧
    (s.t60Acc + d < 1 / 60 → (s.tickT60 d).t60Acc = s.t60Acc + d ∧ (s.tickT60 d).dt = s.dt ∧
      (s.tickT60 d).st = s.st)

/-- Step 1 of a TICK: the latch is captured and cleared, whatever the TICK goes on to do (rule R121). -/
def Obligations.EveryTickConsumesTheLatch : Prop :=
  ∀ (s s' : State) (d : Duration) (e : Byte), NextIsTick s s' d e →
    (executeState s' d e).tickIn.key = s.latch ∧ (executeState s' d e).latch = none ∧
    ∀ t, step s = .next t → t.latch = none

/-- A TICK that does not fire the CPU Timer executes nothing (rule R123). -/
def Obligations.TickWithoutAFireExecutesNothing : Prop :=
  ∀ (s s' : State) (d : Duration) (e : Byte), NextIsTick s s' d e → ¬CpuFires s d →
    ∃ t, step s = .next t ∧ t.tcpuAcc = s.tcpuAcc + d ∧ t.latch = none ∧ t.response = .ok ∧
      t.t60Acc = (s.tickT60 d).t60Acc ∧ t.dt = (s.tickT60 d).dt ∧ t.st = (s.tickT60 d).st ∧
      t.schedule = s'.schedule ∧ t.tickIn = .idle ∧
      KeepsBut [.latch, .t60Acc, .tcpuAcc, .dt, .st, .schedule, .response, .tickIn] s t

/-- A step runs the decoded instruction: where the next transaction is a TICK that fires the CPU Timer and the
bytes at `pc` encode `i`, the step is `exec i` in the state after steps 1 and 2 with `pc` advanced, and the
transients of the TICK are gone afterwards. -/
def Obligations.StepRunsTheDecodedInstruction : Prop :=
  ∀ (s s' : State) (d : Duration) (e : Byte) (i : Instr),
    NextIsTick s s' d e → CpuFires s d → EncodedAtPc s i →
    step s = endTick (exec i (executeState s' d e))

/-- A step whose fetch leaves memory aborts: the spec's own choice (decision D5, log entry 5). -/
def Obligations.FetchAboveMemoryAborts : Prop :=
  ∀ (s s' : State) (d : Duration) (e : Byte), NextIsTick s s' d e → CpuFires s d → 0xFFF < s.pc.toNat + 1 →
    step s = .fault .outOfBounds

/-- A word that matches no row of the table raises `InvalidInstruction` with its own address and nibbles; the
instruction cycle changes nothing but `pc` (rule R127), and returns the record. -/
def Obligations.IllegalWordRaisesInvalidInstruction : Prop :=
  ∀ (s : State) (w : Word), s.fetch = some w → (∀ r ∈ opcodeTable, w &&& r.mask ≠ r.value) →
    ∃ t, instructionCycle s = .next t ∧
      t.response = .fault ⟨.invalidInstruction, s.pc, n0 w, n1 w, n2 w, n3 w⟩ ∧ t.pc = s.pc + 2 ∧
      KeepsBut [.pc, .response] s t

/-- A press is seen by FX0A in the TICK after it; without a press since the last TICK a held key is not
(rule R212, corner case (b)). -/
def Obligations.PressReachesTheKeyWaitOfTheNextTick : Prop :=
  ∀ (s : State) (k : Key) (d : Duration) (e : Byte) (rest : List Transaction) (x : RegNum),
    0 ≤ d → CpuFires s d → EncodedAtPc s (.ldVxK x) →
    (s.schedule = .press k :: .tick d e :: rest → ∃ t u, step s = .next t ∧ step t = .next u ∧
      (u.v x).toNat = k.val ∧ u.pc = s.pc + 2 ∧ u.latch = none ∧ u.keys[k.val] = true ∧
      u.response = .ok) ∧
    (s.schedule = .tick d e :: rest → s.latch = none → ∃ u, step s = .next u ∧ u.pc = s.pc ∧
      (∀ r, u.v r = s.v r) ∧ u.response = .ok)

/-- Key-latch staleness (rule R290): a press consumed by a TICK that executes nothing is lost to the FX0A of
the following TICK. -/
def Obligations.StalePressIsLostToTheKeyWait : Prop :=
  ∀ (s : State) (k : Key) (d0 d : Duration) (e0 e : Byte) (rest : List Transaction) (x : RegNum),
    s.schedule = .press k :: .tick d0 e0 :: .tick d e :: rest → 0 ≤ d0 → 0 ≤ d → ¬CpuFires s d0 →
    1 / (s.cfg.ips : Rat) ≤ s.tcpuAcc + d0 + d → EncodedAtPc s (.ldVxK x) →
    ∃ t u z, step s = .next t ∧ step t = .next u ∧ step u = .next z ∧ z.pc = s.pc ∧
      (∀ r, z.v r = s.v r) ∧ z.keys[k.val] = true

/-! ## The host's transactions -/

/-- PRESS and RELEASE: the key state, the latch on a press only, nothing else. That RELEASE leaves the latch is
the spec's own choice (decision D23, log entry 10). -/
def Obligations.PressAndReleaseChangeTheKeyState : Prop :=
  ∀ (s s' : State) (k : Key),
    (s.takeTransaction = (.press k, s') → ∃ t, step s = .next t ∧ t.keys[k.val] = true ∧ t.latch = some k ∧
      t.response = .none ∧ (∀ q : Key, q ≠ k → t.keys[q.val] = s.keys[q.val]) ∧ t.schedule = s'.schedule ∧
      KeepsBut [.keys, .latch, .schedule, .response] s t) ∧
    (s.takeTransaction = (.release k, s') → ∃ t, step s = .next t ∧ t.keys[k.val] = false ∧
      t.response = .none ∧ (∀ q : Key, q ≠ k → t.keys[q.val] = s.keys[q.val]) ∧ t.schedule = s'.schedule ∧
      KeepsBut [.keys, .schedule, .response] s t)

/-- LOAD: the bytes from `PROGRAM_START` upward, every other byte as before, nothing else; too long a load has
no step (rules R252, R258; log entry 6). That LOAD may come between any two transactions is the spec's own
choice (decision D18, log entry 10). -/
def Obligations.LoadCopiesTheProgram : Prop :=
  ∀ (s s' : State) (bytes : List Byte), s.mem.wf s.cfg = true → s.takeTransaction = (.load bytes, s') →
    (bytes.length ≤ 4096 - s.cfg.programStart.toNat → s.cfg.programStart.toNat ≤ 4096 →
      ∃ t, step s = .next t ∧
        (∀ k (h : k < bytes.length), t.byteAt (s.cfg.programStart.toNat + k) = bytes[k]) ∧
        (∀ a, a < s.cfg.programStart.toNat ∨ s.cfg.programStart.toNat + bytes.length ≤ a →
          t.byteAt a = s.byteAt a) ∧
        t.schedule = s'.schedule ∧ t.response = .none ∧ KeepsBut [.mem, .schedule, .response] s t) ∧
    (4096 < s.cfg.programStart.toNat + bytes.length → step s = .refused .loadTooLong)

/-- RESET of a legal Configuration gives every element its value of rule R39: `pc` and the font are the
source's; the zeros are the spec's own choice (decision D3, log entry 8). What stands outside the CORE is kept
(log entry 13). An illegal Configuration has no step (rule R258); which Configurations are legal, and that the
model refuses the others, is a choice (decision D17, log entry 6). -/
def Obligations.ResetGivesEveryElementItsValue : Prop :=
  ∀ (s s' : State) (c : Configuration), s.takeTransaction = (.reset c, s') →
    (c.legal = true → ∃ t, step s = .next t ∧ t.cfg = c ∧ t.pc = c.programStart ∧
      (∀ k (h : k < 80), t.byteAt (c.fontStart.toNat + k) = c.fontBitmap[k]) ∧
      (∀ a, a < c.fontStart.toNat ∨ c.fontStart.toNat + 80 ≤ a → t.byteAt a = 0) ∧
      t.t60Acc = 0 ∧ t.tcpuAcc = 0 ∧ (∀ r, t.v r = 0) ∧ t.I = 0 ∧ t.sp = 0 ∧ t.dt = 0 ∧ t.st = 0 ∧
      (∀ y x, pixel t.fb y x = false) ∧ (∀ k : Key, t.keys[k.val] = false) ∧ t.latch = none ∧
      t.schedule = s'.schedule ∧ t.draws = s.draws ∧ t.idleDelta = s.idleDelta) ∧
    (c.legal = false → step s = .refused .illegalConfiguration)

/-- SOUND is `st > 0` and FB is the framebuffer; observing changes nothing but what was returned last (rules
R256, R257). -/
def Obligations.ObserversReturnAndChangeNothing : Prop :=
  ∀ s s' : State,
    (s.takeTransaction = (.sound, s') → ∃ t b, step s = .next t ∧ t.response = .sound b ∧
      (b = true ↔ 0 < s.st.toNat) ∧ t.schedule = s'.schedule ∧ KeepsBut [.schedule, .response] s t) ∧
    (s.takeTransaction = (.fb, s') → ∃ t f, step s = .next t ∧ t.response = .frame f ∧
      (∀ y x, pixel f y x = pixel s.fb y x) ∧ t.schedule = s'.schedule ∧
      KeepsBut [.schedule, .response] s t)

/-- Only RESET changes the Configuration (rule R251), and only PRESS and RELEASE change the key states apart
from it (rule R33). -/
def Obligations.OnlyTheHostChangesConfigurationAndKeys : Prop :=
  ∀ s t : State, step s = .next t →
    (t.cfg ≠ s.cfg → ∃ c, s.takeTransaction.1 = .reset c) ∧
    (t.keys ≠ s.keys → (∃ c, s.takeTransaction.1 = .reset c) ∨ (∃ k, s.takeTransaction.1 = .press k) ∨
      ∃ k, s.takeTransaction.1 = .release k)

/-- A step is refused exactly when the host breaks a duty of rule R258, and never for want of a meaning. That such
a transaction is refused is the model's choice (DESIGN CHOICE: log entry 6); which Configurations are legal is
the spec's own (decision D17, log entry 6). With nothing scheduled the transaction is the idle TICK (log entry
2). -/
def Obligations.StepRefusesExactlyBrokenHostDuties : Prop :=
  ∀ s : State, ((∃ r, step s = .refused r) ↔ BreaksDuty s.cfg s.takeTransaction.1) ∧
    ∀ m, step s ≠ .refused (.notModelled m)

/-! ## Reset and invariant -/

/-- The state after reset with the default Configuration (rules R8, R39). The zeros are the spec's own choice
(decision D3, log entry 8); the font bytes and the host's side are the model's (log entries 2 and 7). -/
def Obligations.ResetStateHasTheListedValues : Prop :=
  State.reset.pc = 0x200 ∧ State.reset.cfg.ips = 700 ∧ State.reset.cfg.fontStart = 0x050 ∧
  State.reset.cfg.copyVyWhileShifting = false ∧ State.reset.cfg.incrementIndexDuringSaveLoad = false ∧
  State.reset.cfg.indexOverflowFlag = false ∧
  (∀ k (h : k < 80), State.reset.byteAt (0x050 + k) = State.reset.cfg.fontBitmap[k]) ∧
  State.reset.byteAt 0x050 = 0xF0 ∧
  (∀ a, a < 0x050 ∨ 0x0A0 ≤ a → State.reset.byteAt a = 0) ∧
  (∀ r, State.reset.v r = 0) ∧ State.reset.I = 0 ∧ State.reset.sp = 0 ∧ State.reset.dt = 0 ∧
  State.reset.st = 0 ∧ (∀ y x, pixel State.reset.fb y x = false) ∧
  (∀ k : Key, State.reset.keys[k.val] = false) ∧ State.reset.latch = none ∧
  State.reset.t60Acc = 0 ∧ State.reset.tcpuAcc = 0 ∧ State.reset.schedule = []

/-- The invariant of rule R38 holds after RESET with any legal Configuration, and at `State.reset`. The choices it
rests on are those of `StepKeepsTheInvariant`. -/
def Obligations.InvariantHoldsAfterReset : Prop :=
  (∀ c : Configuration, c.legal = true → (State.resetWith c).Inv) ∧ State.reset.Inv

/-- Every step keeps the invariant of rule R38: canonical memory, a legal Configuration, `pc ≤ 0x10FE`, at most
1024 return addresses, each of a 2NNN inside memory, both accumulators below their periods, no transient. The legal
Configurations, the 1024 and the exact durations are the spec's own choices (decisions D17, D7, D15, log
entries 6, 12, 11); canonical memory, `tickIn` and `idleDelta` are the model's (log entries 8, 17, 2). -/
def Obligations.StepKeepsTheInvariant : Prop := ∀ s t : State, s.Inv → step s = .next t → t.Inv

/-- A quiescent state stays quiescent under every TICK, and keeps `mem`, `V`, `I`, `pc`, the stack, `fb` and
`keys`: rule R262's own inference ("in such a state no further TICK changes ... [derived: from 41_flow.md rule
R141]"). -/
def Obligations.QuiescentStatesStayQuiescent : Prop :=
  ∀ (s s' : State) (a : BitVec 12) (d : Duration) (e : Byte), s.QuiescentAt a → NextIsTick s s' d e →
    ∃ t, step s = .next t ∧ t.QuiescentAt a ∧ t.response = .ok ∧ t.schedule = s'.schedule ∧
      KeepsBut [.latch, .t60Acc, .tcpuAcc, .dt, .st, .schedule, .response, .tickIn] s t

/-- A quiescent state whose host only lets time pass runs safely for ever: no abort, no refusal, however many
TICKs follow (rules R258, R262). That a step with nothing scheduled is a TICK of `idleDelta` is the model's
choice (DESIGN CHOICE: log entry 2); that a quiescent state stays so is R262's own inference. -/
def Obligations.QuiescentStatesRunSafelyForEver : Prop :=
  ∀ (s : State) (a : BitVec 12), s.QuiescentAt a → s.schedule = [] → deltaLegal s.idleDelta = true →
    ∀ k, SafeRun k s
end

