-- ==== Sys2Proof/Laws/Decode.lean ====
section
/-! SUPPORT. The fields of an instruction word: of a word built by a format of rule R91, and as numbers. -/

namespace Sys2Proof

/-! ## Fields as numbers -/

theorem n0_toNat (w : Word) : (n0 w).toNat = w.toNat / 4096 := by
  have := w.isLt
  simp [n0, BitVec.extractLsb'_toNat, Nat.shiftRight_eq_div_pow]
  omega

theorem n1_toNat (w : Word) : (n1 w).toNat = w.toNat / 256 % 16 := by
  simp [n1, BitVec.extractLsb'_toNat, Nat.shiftRight_eq_div_pow]

theorem n2_toNat (w : Word) : (n2 w).toNat = w.toNat / 16 % 16 := by
  simp [n2, BitVec.extractLsb'_toNat, Nat.shiftRight_eq_div_pow]

theorem n3_toNat (w : Word) : (n3 w).toNat = w.toNat % 16 := by
  simp [n3, BitVec.extractLsb'_toNat]

theorem fieldX_val (w : Word) : (fieldX w).val = w.toNat / 256 % 16 := n1_toNat w

theorem fieldY_val (w : Word) : (fieldY w).val = w.toNat / 16 % 16 := n2_toNat w

theorem fieldNN_toNat (w : Word) : (fieldNN w).toNat = w.toNat % 256 := by
  simp [fieldNN, BitVec.extractLsb'_toNat]

theorem fieldNNN_toNat (w : Word) : (fieldNNN w).toNat = w.toNat % 4096 := by
  simp [fieldNNN, BitVec.extractLsb'_toNat]

theorem highByte_toNat (w : Word) : (highByte w).toNat = w.toNat / 256 := by
  have := w.isLt
  simp [highByte, BitVec.extractLsb'_toNat, Nat.shiftRight_eq_div_pow]
  omega

theorem lowByte_toNat (w : Word) : (lowByte w).toNat = w.toNat % 256 := by
  simp [lowByte, BitVec.extractLsb'_toNat]

theorem wordOfBytes_toNat (b0 b1 : Byte) : (wordOfBytes b0 b1).toNat = b0.toNat * 256 + b1.toNat := by
  have := b1.isLt
  rw [wordOfBytes, BitVec.toNat_append, ← Nat.shiftLeft_add_eq_or_of_lt (by omega), Nat.shiftLeft_eq]

@[simp] theorem wordOfBytes_highByte_lowByte (w : Word) : wordOfBytes (highByte w) (lowByte w) = w := by
  apply BitVec.eq_of_toNat_eq
  rw [wordOfBytes_toNat, highByte_toNat, lowByte_toNat]
  omega

/-! ## Words of the formats as numbers -/

theorem formatA_toNat (op : Nibble) (nnn : BitVec 12) :
    (formatA op nnn).toNat = op.toNat * 4096 + nnn.toNat := by
  have := nnn.isLt
  rw [formatA, BitVec.toNat_append, ← Nat.shiftLeft_add_eq_or_of_lt (by omega), Nat.shiftLeft_eq]

theorem formatXB_toNat (op : Nibble) (x : RegNum) (nn : Byte) :
    (formatXB op x nn).toNat = op.toNat * 4096 + x.val * 256 + nn.toNat := by
  have := nn.isLt
  have := x.isLt
  rw [formatXB, BitVec.toNat_append, BitVec.toNat_append, ← Nat.shiftLeft_add_eq_or_of_lt (by omega),
    ← Nat.shiftLeft_add_eq_or_of_lt (by simp), Nat.shiftLeft_eq, Nat.shiftLeft_eq]
  simp
  omega

theorem formatXYN_toNat (op : Nibble) (x y : RegNum) (n : Nibble) :
    (formatXYN op x y n).toNat = op.toNat * 4096 + x.val * 256 + y.val * 16 + n.toNat := by
  have := n.isLt
  have := x.isLt
  have := y.isLt
  rw [formatXYN, BitVec.toNat_append, BitVec.toNat_append, BitVec.toNat_append,
    ← Nat.shiftLeft_add_eq_or_of_lt (by omega), ← Nat.shiftLeft_add_eq_or_of_lt (by simp),
    ← Nat.shiftLeft_add_eq_or_of_lt (by simp), Nat.shiftLeft_eq, Nat.shiftLeft_eq,
    Nat.shiftLeft_eq]
  simp
  omega

theorem formatA_eq_ofNat (op : Nibble) (nnn : BitVec 12) :
    formatA op nnn = BitVec.ofNat 16 (op.toNat * 4096 + nnn.toNat) :=
  BitVec.eq_of_toNat_eq (by rw [formatA_toNat, BitVec.toNat_ofNat]; omega)

theorem formatXB_eq_ofNat (op : Nibble) (x : RegNum) (nn : Byte) :
    formatXB op x nn = BitVec.ofNat 16 (op.toNat * 4096 + x.val * 256 + nn.toNat) :=
  BitVec.eq_of_toNat_eq (by rw [formatXB_toNat, BitVec.toNat_ofNat]; omega)

theorem formatXYN_eq_ofNat (op : Nibble) (x y : RegNum) (n : Nibble) :
    formatXYN op x y n = BitVec.ofNat 16 (op.toNat * 4096 + x.val * 256 + y.val * 16 + n.toNat) :=
  BitVec.eq_of_toNat_eq (by rw [formatXYN_toNat, BitVec.toNat_ofNat]; omega)

/-! ## Fields of the formats -/

@[simp] theorem n0_formatA (op : Nibble) (nnn : BitVec 12) : n0 (formatA op nnn) = op := by
  apply BitVec.eq_of_toNat_eq
  rw [n0_toNat, formatA_toNat]
  omega

@[simp] theorem fieldNNN_formatA (op : Nibble) (nnn : BitVec 12) : fieldNNN (formatA op nnn) = nnn := by
  apply BitVec.eq_of_toNat_eq
  rw [fieldNNN_toNat, formatA_toNat]
  omega

@[simp] theorem n0_formatXB (op : Nibble) (x : RegNum) (nn : Byte) : n0 (formatXB op x nn) = op := by
  apply BitVec.eq_of_toNat_eq
  rw [n0_toNat, formatXB_toNat]
  omega

@[simp] theorem fieldX_formatXB (op : Nibble) (x : RegNum) (nn : Byte) : fieldX (formatXB op x nn) = x := by
  apply Fin.ext
  rw [fieldX_val, formatXB_toNat]
  omega

@[simp] theorem fieldNN_formatXB (op : Nibble) (x : RegNum) (nn : Byte) : fieldNN (formatXB op x nn) = nn := by
  apply BitVec.eq_of_toNat_eq
  rw [fieldNN_toNat, formatXB_toNat]
  omega

@[simp] theorem n0_formatXYN (op : Nibble) (x y : RegNum) (n : Nibble) : n0 (formatXYN op x y n) = op := by
  apply BitVec.eq_of_toNat_eq
  rw [n0_toNat, formatXYN_toNat]
  omega

@[simp] theorem fieldX_formatXYN (op : Nibble) (x y : RegNum) (n : Nibble) :
    fieldX (formatXYN op x y n) = x := by
  apply Fin.ext
  rw [fieldX_val, formatXYN_toNat]
  omega

@[simp] theorem fieldY_formatXYN (op : Nibble) (x y : RegNum) (n : Nibble) :
    fieldY (formatXYN op x y n) = y := by
  apply Fin.ext
  rw [fieldY_val, formatXYN_toNat]
  omega

@[simp] theorem n3_formatXYN (op : Nibble) (x y : RegNum) (n : Nibble) : n3 (formatXYN op x y n) = n := by
  apply BitVec.eq_of_toNat_eq
  rw [n3_toNat, formatXYN_toNat]
  omega

/-! ## Masked words -/

theorem formatA_masked (op : Nibble) (nnn : BitVec 12) : formatA op nnn &&& 0xF000#16 = op ++ 0x000#12 := by
  have h : 0xF000#16 = 0xF#4 ++ 0x000#12 := by decide
  rw [formatA, h, BitVec.and_append, show op &&& 0xF#4 = op from BitVec.and_allOnes, BitVec.and_zero]

theorem formatXB_masked (op : Nibble) (x : RegNum) (nn : Byte) :
    formatXB op x nn &&& 0xF000#16 = op ++ 0x0#4 ++ 0x00#8 := by
  have h : 0xF000#16 = 0xF#4 ++ 0x0#4 ++ 0x00#8 := by decide
  rw [formatXB, h, BitVec.and_append, BitVec.and_append, show op &&& 0xF#4 = op from BitVec.and_allOnes,
    BitVec.and_zero, BitVec.and_zero]

theorem formatXB_masked_function (op : Nibble) (x : RegNum) (nn : Byte) :
    formatXB op x nn &&& 0xF0FF#16 = op ++ 0x0#4 ++ nn := by
  have h : 0xF0FF#16 = 0xF#4 ++ 0x0#4 ++ 0xFF#8 := by decide
  rw [formatXB, h, BitVec.and_append, BitVec.and_append, show op &&& 0xF#4 = op from BitVec.and_allOnes,
    show nn &&& 0xFF#8 = nn from BitVec.and_allOnes, BitVec.and_zero]

theorem formatXYN_masked (op : Nibble) (x y : RegNum) (n : Nibble) :
    formatXYN op x y n &&& 0xF000#16 = op ++ 0x0#4 ++ 0x0#4 ++ 0x0#4 := by
  have h : 0xF000#16 = 0xF#4 ++ 0x0#4 ++ 0x0#4 ++ 0x0#4 := by decide
  rw [formatXYN, h, BitVec.and_append, BitVec.and_append, BitVec.and_append,
    show op &&& 0xF#4 = op from BitVec.and_allOnes, BitVec.and_zero, BitVec.and_zero, BitVec.and_zero]

theorem formatXYN_masked_function (op : Nibble) (x y : RegNum) (n : Nibble) :
    formatXYN op x y n &&& 0xF00F#16 = op ++ 0x0#4 ++ 0x0#4 ++ n := by
  have h : 0xF00F#16 = 0xF#4 ++ 0x0#4 ++ 0x0#4 ++ 0xF#4 := by decide
  rw [formatXYN, h, BitVec.and_append, BitVec.and_append, BitVec.and_append,
    show op &&& 0xF#4 = op from BitVec.and_allOnes, show n &&& 0xF#4 = n from BitVec.and_allOnes,
    BitVec.and_zero, BitVec.and_zero]

end Sys2Proof
end

