-- ==== Sys2Proof/Laws/State.lean ====
section
/-! SUPPORT. One lemma per field per update of the state, true by definition, so that no proof unfolds
a record update; and what the accessors read after an update. -/

namespace Sys2Proof.Machine

variable (s : State)

/-! ### setMem -/

@[simp] theorem State.setMem_mem (m : Memory) : (s.setMem m).mem = m := rfl
@[simp] theorem State.setMem_V (m : Memory) : (s.setMem m).V = s.V := rfl
@[simp] theorem State.setMem_I (m : Memory) : (s.setMem m).I = s.I := rfl
@[simp] theorem State.setMem_pc (m : Memory) : (s.setMem m).pc = s.pc := rfl
@[simp] theorem State.setMem_stack (m : Memory) : (s.setMem m).stack = s.stack := rfl
@[simp] theorem State.setMem_dt (m : Memory) : (s.setMem m).dt = s.dt := rfl
@[simp] theorem State.setMem_st (m : Memory) : (s.setMem m).st = s.st := rfl
@[simp] theorem State.setMem_fb (m : Memory) : (s.setMem m).fb = s.fb := rfl
@[simp] theorem State.setMem_keys (m : Memory) : (s.setMem m).keys = s.keys := rfl
@[simp] theorem State.setMem_latch (m : Memory) : (s.setMem m).latch = s.latch := rfl
@[simp] theorem State.setMem_t60Acc (m : Memory) : (s.setMem m).t60Acc = s.t60Acc := rfl
@[simp] theorem State.setMem_tcpuAcc (m : Memory) : (s.setMem m).tcpuAcc = s.tcpuAcc := rfl
@[simp] theorem State.setMem_cfg (m : Memory) : (s.setMem m).cfg = s.cfg := rfl
@[simp] theorem State.setMem_tickIn (m : Memory) : (s.setMem m).tickIn = s.tickIn := rfl
@[simp] theorem State.setMem_draws (m : Memory) : (s.setMem m).draws = s.draws := rfl
@[simp] theorem State.setMem_schedule (m : Memory) : (s.setMem m).schedule = s.schedule := rfl
@[simp] theorem State.setMem_idleDelta (m : Memory) : (s.setMem m).idleDelta = s.idleDelta := rfl
@[simp] theorem State.setMem_response (m : Memory) : (s.setMem m).response = s.response := rfl
@[simp] theorem State.setMem_v (m : Memory) (r : RegNum) : (s.setMem m).v r = s.v r := rfl

/-! ### setI -/

@[simp] theorem State.setI_mem (a : Word) : (s.setI a).mem = s.mem := rfl
@[simp] theorem State.setI_V (a : Word) : (s.setI a).V = s.V := rfl
@[simp] theorem State.setI_I (a : Word) : (s.setI a).I = a := rfl
@[simp] theorem State.setI_pc (a : Word) : (s.setI a).pc = s.pc := rfl
@[simp] theorem State.setI_stack (a : Word) : (s.setI a).stack = s.stack := rfl
@[simp] theorem State.setI_dt (a : Word) : (s.setI a).dt = s.dt := rfl
@[simp] theorem State.setI_st (a : Word) : (s.setI a).st = s.st := rfl
@[simp] theorem State.setI_fb (a : Word) : (s.setI a).fb = s.fb := rfl
@[simp] theorem State.setI_keys (a : Word) : (s.setI a).keys = s.keys := rfl
@[simp] theorem State.setI_latch (a : Word) : (s.setI a).latch = s.latch := rfl
@[simp] theorem State.setI_t60Acc (a : Word) : (s.setI a).t60Acc = s.t60Acc := rfl
@[simp] theorem State.setI_tcpuAcc (a : Word) : (s.setI a).tcpuAcc = s.tcpuAcc := rfl
@[simp] theorem State.setI_cfg (a : Word) : (s.setI a).cfg = s.cfg := rfl
@[simp] theorem State.setI_tickIn (a : Word) : (s.setI a).tickIn = s.tickIn := rfl
@[simp] theorem State.setI_draws (a : Word) : (s.setI a).draws = s.draws := rfl
@[simp] theorem State.setI_schedule (a : Word) : (s.setI a).schedule = s.schedule := rfl
@[simp] theorem State.setI_idleDelta (a : Word) : (s.setI a).idleDelta = s.idleDelta := rfl
@[simp] theorem State.setI_response (a : Word) : (s.setI a).response = s.response := rfl
@[simp] theorem State.setI_v (a : Word) (r : RegNum) : (s.setI a).v r = s.v r := rfl
@[simp] theorem State.setI_byteAt (a : Word) (x : Nat) : (s.setI a).byteAt x = s.byteAt x := rfl

/-! ### setPc -/

@[simp] theorem State.setPc_mem (a : Word) : (s.setPc a).mem = s.mem := rfl
@[simp] theorem State.setPc_V (a : Word) : (s.setPc a).V = s.V := rfl
@[simp] theorem State.setPc_I (a : Word) : (s.setPc a).I = s.I := rfl
@[simp] theorem State.setPc_pc (a : Word) : (s.setPc a).pc = a := rfl
@[simp] theorem State.setPc_stack (a : Word) : (s.setPc a).stack = s.stack := rfl
@[simp] theorem State.setPc_dt (a : Word) : (s.setPc a).dt = s.dt := rfl
@[simp] theorem State.setPc_st (a : Word) : (s.setPc a).st = s.st := rfl
@[simp] theorem State.setPc_fb (a : Word) : (s.setPc a).fb = s.fb := rfl
@[simp] theorem State.setPc_keys (a : Word) : (s.setPc a).keys = s.keys := rfl
@[simp] theorem State.setPc_latch (a : Word) : (s.setPc a).latch = s.latch := rfl
@[simp] theorem State.setPc_t60Acc (a : Word) : (s.setPc a).t60Acc = s.t60Acc := rfl
@[simp] theorem State.setPc_tcpuAcc (a : Word) : (s.setPc a).tcpuAcc = s.tcpuAcc := rfl
@[simp] theorem State.setPc_cfg (a : Word) : (s.setPc a).cfg = s.cfg := rfl
@[simp] theorem State.setPc_tickIn (a : Word) : (s.setPc a).tickIn = s.tickIn := rfl
@[simp] theorem State.setPc_draws (a : Word) : (s.setPc a).draws = s.draws := rfl
@[simp] theorem State.setPc_schedule (a : Word) : (s.setPc a).schedule = s.schedule := rfl
@[simp] theorem State.setPc_idleDelta (a : Word) : (s.setPc a).idleDelta = s.idleDelta := rfl
@[simp] theorem State.setPc_response (a : Word) : (s.setPc a).response = s.response := rfl
@[simp] theorem State.setPc_v (a : Word) (r : RegNum) : (s.setPc a).v r = s.v r := rfl
@[simp] theorem State.setPc_byteAt (a : Word) (x : Nat) : (s.setPc a).byteAt x = s.byteAt x := rfl

/-! ### setStack -/

@[simp] theorem State.setStack_mem (k : List Word) : (s.setStack k).mem = s.mem := rfl
@[simp] theorem State.setStack_V (k : List Word) : (s.setStack k).V = s.V := rfl
@[simp] theorem State.setStack_I (k : List Word) : (s.setStack k).I = s.I := rfl
@[simp] theorem State.setStack_pc (k : List Word) : (s.setStack k).pc = s.pc := rfl
@[simp] theorem State.setStack_stack (k : List Word) : (s.setStack k).stack = k := rfl
@[simp] theorem State.setStack_dt (k : List Word) : (s.setStack k).dt = s.dt := rfl
@[simp] theorem State.setStack_st (k : List Word) : (s.setStack k).st = s.st := rfl
@[simp] theorem State.setStack_fb (k : List Word) : (s.setStack k).fb = s.fb := rfl
@[simp] theorem State.setStack_keys (k : List Word) : (s.setStack k).keys = s.keys := rfl
@[simp] theorem State.setStack_latch (k : List Word) : (s.setStack k).latch = s.latch := rfl
@[simp] theorem State.setStack_t60Acc (k : List Word) : (s.setStack k).t60Acc = s.t60Acc := rfl
@[simp] theorem State.setStack_tcpuAcc (k : List Word) : (s.setStack k).tcpuAcc = s.tcpuAcc := rfl
@[simp] theorem State.setStack_cfg (k : List Word) : (s.setStack k).cfg = s.cfg := rfl
@[simp] theorem State.setStack_tickIn (k : List Word) : (s.setStack k).tickIn = s.tickIn := rfl
@[simp] theorem State.setStack_draws (k : List Word) : (s.setStack k).draws = s.draws := rfl
@[simp] theorem State.setStack_schedule (k : List Word) : (s.setStack k).schedule = s.schedule := rfl
@[simp] theorem State.setStack_idleDelta (k : List Word) : (s.setStack k).idleDelta = s.idleDelta := rfl
@[simp] theorem State.setStack_response (k : List Word) : (s.setStack k).response = s.response := rfl
@[simp] theorem State.setStack_v (k : List Word) (r : RegNum) : (s.setStack k).v r = s.v r := rfl
@[simp] theorem State.setStack_byteAt (k : List Word) (x : Nat) : (s.setStack k).byteAt x = s.byteAt x := rfl

/-! ### setDt -/

@[simp] theorem State.setDt_mem (b : Byte) : (s.setDt b).mem = s.mem := rfl
@[simp] theorem State.setDt_V (b : Byte) : (s.setDt b).V = s.V := rfl
@[simp] theorem State.setDt_I (b : Byte) : (s.setDt b).I = s.I := rfl
@[simp] theorem State.setDt_pc (b : Byte) : (s.setDt b).pc = s.pc := rfl
@[simp] theorem State.setDt_stack (b : Byte) : (s.setDt b).stack = s.stack := rfl
@[simp] theorem State.setDt_dt (b : Byte) : (s.setDt b).dt = b := rfl
@[simp] theorem State.setDt_st (b : Byte) : (s.setDt b).st = s.st := rfl
@[simp] theorem State.setDt_fb (b : Byte) : (s.setDt b).fb = s.fb := rfl
@[simp] theorem State.setDt_keys (b : Byte) : (s.setDt b).keys = s.keys := rfl
@[simp] theorem State.setDt_latch (b : Byte) : (s.setDt b).latch = s.latch := rfl
@[simp] theorem State.setDt_t60Acc (b : Byte) : (s.setDt b).t60Acc = s.t60Acc := rfl
@[simp] theorem State.setDt_tcpuAcc (b : Byte) : (s.setDt b).tcpuAcc = s.tcpuAcc := rfl
@[simp] theorem State.setDt_cfg (b : Byte) : (s.setDt b).cfg = s.cfg := rfl
@[simp] theorem State.setDt_tickIn (b : Byte) : (s.setDt b).tickIn = s.tickIn := rfl
@[simp] theorem State.setDt_draws (b : Byte) : (s.setDt b).draws = s.draws := rfl
@[simp] theorem State.setDt_schedule (b : Byte) : (s.setDt b).schedule = s.schedule := rfl
@[simp] theorem State.setDt_idleDelta (b : Byte) : (s.setDt b).idleDelta = s.idleDelta := rfl
@[simp] theorem State.setDt_response (b : Byte) : (s.setDt b).response = s.response := rfl
@[simp] theorem State.setDt_v (b : Byte) (r : RegNum) : (s.setDt b).v r = s.v r := rfl
@[simp] theorem State.setDt_byteAt (b : Byte) (x : Nat) : (s.setDt b).byteAt x = s.byteAt x := rfl

/-! ### setSt -/

@[simp] theorem State.setSt_mem (b : Byte) : (s.setSt b).mem = s.mem := rfl
@[simp] theorem State.setSt_V (b : Byte) : (s.setSt b).V = s.V := rfl
@[simp] theorem State.setSt_I (b : Byte) : (s.setSt b).I = s.I := rfl
@[simp] theorem State.setSt_pc (b : Byte) : (s.setSt b).pc = s.pc := rfl
@[simp] theorem State.setSt_stack (b : Byte) : (s.setSt b).stack = s.stack := rfl
@[simp] theorem State.setSt_dt (b : Byte) : (s.setSt b).dt = s.dt := rfl
@[simp] theorem State.setSt_st (b : Byte) : (s.setSt b).st = b := rfl
@[simp] theorem State.setSt_fb (b : Byte) : (s.setSt b).fb = s.fb := rfl
@[simp] theorem State.setSt_keys (b : Byte) : (s.setSt b).keys = s.keys := rfl
@[simp] theorem State.setSt_latch (b : Byte) : (s.setSt b).latch = s.latch := rfl
@[simp] theorem State.setSt_t60Acc (b : Byte) : (s.setSt b).t60Acc = s.t60Acc := rfl
@[simp] theorem State.setSt_tcpuAcc (b : Byte) : (s.setSt b).tcpuAcc = s.tcpuAcc := rfl
@[simp] theorem State.setSt_cfg (b : Byte) : (s.setSt b).cfg = s.cfg := rfl
@[simp] theorem State.setSt_tickIn (b : Byte) : (s.setSt b).tickIn = s.tickIn := rfl
@[simp] theorem State.setSt_draws (b : Byte) : (s.setSt b).draws = s.draws := rfl
@[simp] theorem State.setSt_schedule (b : Byte) : (s.setSt b).schedule = s.schedule := rfl
@[simp] theorem State.setSt_idleDelta (b : Byte) : (s.setSt b).idleDelta = s.idleDelta := rfl
@[simp] theorem State.setSt_response (b : Byte) : (s.setSt b).response = s.response := rfl
@[simp] theorem State.setSt_v (b : Byte) (r : RegNum) : (s.setSt b).v r = s.v r := rfl
@[simp] theorem State.setSt_byteAt (b : Byte) (x : Nat) : (s.setSt b).byteAt x = s.byteAt x := rfl

/-! ### setFb -/

@[simp] theorem State.setFb_mem (f : Framebuffer) : (s.setFb f).mem = s.mem := rfl
@[simp] theorem State.setFb_V (f : Framebuffer) : (s.setFb f).V = s.V := rfl
@[simp] theorem State.setFb_I (f : Framebuffer) : (s.setFb f).I = s.I := rfl
@[simp] theorem State.setFb_pc (f : Framebuffer) : (s.setFb f).pc = s.pc := rfl
@[simp] theorem State.setFb_stack (f : Framebuffer) : (s.setFb f).stack = s.stack := rfl
@[simp] theorem State.setFb_dt (f : Framebuffer) : (s.setFb f).dt = s.dt := rfl
@[simp] theorem State.setFb_st (f : Framebuffer) : (s.setFb f).st = s.st := rfl
@[simp] theorem State.setFb_fb (f : Framebuffer) : (s.setFb f).fb = f := rfl
@[simp] theorem State.setFb_keys (f : Framebuffer) : (s.setFb f).keys = s.keys := rfl
@[simp] theorem State.setFb_latch (f : Framebuffer) : (s.setFb f).latch = s.latch := rfl
@[simp] theorem State.setFb_t60Acc (f : Framebuffer) : (s.setFb f).t60Acc = s.t60Acc := rfl
@[simp] theorem State.setFb_tcpuAcc (f : Framebuffer) : (s.setFb f).tcpuAcc = s.tcpuAcc := rfl
@[simp] theorem State.setFb_cfg (f : Framebuffer) : (s.setFb f).cfg = s.cfg := rfl
@[simp] theorem State.setFb_tickIn (f : Framebuffer) : (s.setFb f).tickIn = s.tickIn := rfl
@[simp] theorem State.setFb_draws (f : Framebuffer) : (s.setFb f).draws = s.draws := rfl
@[simp] theorem State.setFb_schedule (f : Framebuffer) : (s.setFb f).schedule = s.schedule := rfl
@[simp] theorem State.setFb_idleDelta (f : Framebuffer) : (s.setFb f).idleDelta = s.idleDelta := rfl
@[simp] theorem State.setFb_response (f : Framebuffer) : (s.setFb f).response = s.response := rfl
@[simp] theorem State.setFb_v (f : Framebuffer) (r : RegNum) : (s.setFb f).v r = s.v r := rfl
@[simp] theorem State.setFb_byteAt (f : Framebuffer) (x : Nat) : (s.setFb f).byteAt x = s.byteAt x := rfl

/-! ### setKeys -/

@[simp] theorem State.setKeys_mem (k : Vector Bool 16) : (s.setKeys k).mem = s.mem := rfl
@[simp] theorem State.setKeys_V (k : Vector Bool 16) : (s.setKeys k).V = s.V := rfl
@[simp] theorem State.setKeys_I (k : Vector Bool 16) : (s.setKeys k).I = s.I := rfl
@[simp] theorem State.setKeys_pc (k : Vector Bool 16) : (s.setKeys k).pc = s.pc := rfl
@[simp] theorem State.setKeys_stack (k : Vector Bool 16) : (s.setKeys k).stack = s.stack := rfl
@[simp] theorem State.setKeys_dt (k : Vector Bool 16) : (s.setKeys k).dt = s.dt := rfl
@[simp] theorem State.setKeys_st (k : Vector Bool 16) : (s.setKeys k).st = s.st := rfl
@[simp] theorem State.setKeys_fb (k : Vector Bool 16) : (s.setKeys k).fb = s.fb := rfl
@[simp] theorem State.setKeys_keys (k : Vector Bool 16) : (s.setKeys k).keys = k := rfl
@[simp] theorem State.setKeys_latch (k : Vector Bool 16) : (s.setKeys k).latch = s.latch := rfl
@[simp] theorem State.setKeys_t60Acc (k : Vector Bool 16) : (s.setKeys k).t60Acc = s.t60Acc := rfl
@[simp] theorem State.setKeys_tcpuAcc (k : Vector Bool 16) : (s.setKeys k).tcpuAcc = s.tcpuAcc := rfl
@[simp] theorem State.setKeys_cfg (k : Vector Bool 16) : (s.setKeys k).cfg = s.cfg := rfl
@[simp] theorem State.setKeys_tickIn (k : Vector Bool 16) : (s.setKeys k).tickIn = s.tickIn := rfl
@[simp] theorem State.setKeys_draws (k : Vector Bool 16) : (s.setKeys k).draws = s.draws := rfl
@[simp] theorem State.setKeys_schedule (k : Vector Bool 16) : (s.setKeys k).schedule = s.schedule := rfl
@[simp] theorem State.setKeys_idleDelta (k : Vector Bool 16) : (s.setKeys k).idleDelta = s.idleDelta := rfl
@[simp] theorem State.setKeys_response (k : Vector Bool 16) : (s.setKeys k).response = s.response := rfl
@[simp] theorem State.setKeys_v (k : Vector Bool 16) (r : RegNum) : (s.setKeys k).v r = s.v r := rfl
@[simp] theorem State.setKeys_byteAt (k : Vector Bool 16) (x : Nat) : (s.setKeys k).byteAt x = s.byteAt x := rfl

/-! ### setLatch -/

@[simp] theorem State.setLatch_mem (k : Option Key) : (s.setLatch k).mem = s.mem := rfl
@[simp] theorem State.setLatch_V (k : Option Key) : (s.setLatch k).V = s.V := rfl
@[simp] theorem State.setLatch_I (k : Option Key) : (s.setLatch k).I = s.I := rfl
@[simp] theorem State.setLatch_pc (k : Option Key) : (s.setLatch k).pc = s.pc := rfl
@[simp] theorem State.setLatch_stack (k : Option Key) : (s.setLatch k).stack = s.stack := rfl
@[simp] theorem State.setLatch_dt (k : Option Key) : (s.setLatch k).dt = s.dt := rfl
@[simp] theorem State.setLatch_st (k : Option Key) : (s.setLatch k).st = s.st := rfl
@[simp] theorem State.setLatch_fb (k : Option Key) : (s.setLatch k).fb = s.fb := rfl
@[simp] theorem State.setLatch_keys (k : Option Key) : (s.setLatch k).keys = s.keys := rfl
@[simp] theorem State.setLatch_latch (k : Option Key) : (s.setLatch k).latch = k := rfl
@[simp] theorem State.setLatch_t60Acc (k : Option Key) : (s.setLatch k).t60Acc = s.t60Acc := rfl
@[simp] theorem State.setLatch_tcpuAcc (k : Option Key) : (s.setLatch k).tcpuAcc = s.tcpuAcc := rfl
@[simp] theorem State.setLatch_cfg (k : Option Key) : (s.setLatch k).cfg = s.cfg := rfl
@[simp] theorem State.setLatch_tickIn (k : Option Key) : (s.setLatch k).tickIn = s.tickIn := rfl
@[simp] theorem State.setLatch_draws (k : Option Key) : (s.setLatch k).draws = s.draws := rfl
@[simp] theorem State.setLatch_schedule (k : Option Key) : (s.setLatch k).schedule = s.schedule := rfl
@[simp] theorem State.setLatch_idleDelta (k : Option Key) : (s.setLatch k).idleDelta = s.idleDelta := rfl
@[simp] theorem State.setLatch_response (k : Option Key) : (s.setLatch k).response = s.response := rfl
@[simp] theorem State.setLatch_v (k : Option Key) (r : RegNum) : (s.setLatch k).v r = s.v r := rfl
@[simp] theorem State.setLatch_byteAt (k : Option Key) (x : Nat) : (s.setLatch k).byteAt x = s.byteAt x := rfl

/-! ### setT60Acc -/

@[simp] theorem State.setT60Acc_mem (d : Duration) : (s.setT60Acc d).mem = s.mem := rfl
@[simp] theorem State.setT60Acc_V (d : Duration) : (s.setT60Acc d).V = s.V := rfl
@[simp] theorem State.setT60Acc_I (d : Duration) : (s.setT60Acc d).I = s.I := rfl
@[simp] theorem State.setT60Acc_pc (d : Duration) : (s.setT60Acc d).pc = s.pc := rfl
@[simp] theorem State.setT60Acc_stack (d : Duration) : (s.setT60Acc d).stack = s.stack := rfl
@[simp] theorem State.setT60Acc_dt (d : Duration) : (s.setT60Acc d).dt = s.dt := rfl
@[simp] theorem State.setT60Acc_st (d : Duration) : (s.setT60Acc d).st = s.st := rfl
@[simp] theorem State.setT60Acc_fb (d : Duration) : (s.setT60Acc d).fb = s.fb := rfl
@[simp] theorem State.setT60Acc_keys (d : Duration) : (s.setT60Acc d).keys = s.keys := rfl
@[simp] theorem State.setT60Acc_latch (d : Duration) : (s.setT60Acc d).latch = s.latch := rfl
@[simp] theorem State.setT60Acc_t60Acc (d : Duration) : (s.setT60Acc d).t60Acc = d := rfl
@[simp] theorem State.setT60Acc_tcpuAcc (d : Duration) : (s.setT60Acc d).tcpuAcc = s.tcpuAcc := rfl
@[simp] theorem State.setT60Acc_cfg (d : Duration) : (s.setT60Acc d).cfg = s.cfg := rfl
@[simp] theorem State.setT60Acc_tickIn (d : Duration) : (s.setT60Acc d).tickIn = s.tickIn := rfl
@[simp] theorem State.setT60Acc_draws (d : Duration) : (s.setT60Acc d).draws = s.draws := rfl
@[simp] theorem State.setT60Acc_schedule (d : Duration) : (s.setT60Acc d).schedule = s.schedule := rfl
@[simp] theorem State.setT60Acc_idleDelta (d : Duration) : (s.setT60Acc d).idleDelta = s.idleDelta := rfl
@[simp] theorem State.setT60Acc_response (d : Duration) : (s.setT60Acc d).response = s.response := rfl
@[simp] theorem State.setT60Acc_v (d : Duration) (r : RegNum) : (s.setT60Acc d).v r = s.v r := rfl
@[simp] theorem State.setT60Acc_byteAt (d : Duration) (x : Nat) : (s.setT60Acc d).byteAt x = s.byteAt x := rfl

/-! ### setTcpuAcc -/

@[simp] theorem State.setTcpuAcc_mem (d : Duration) : (s.setTcpuAcc d).mem = s.mem := rfl
@[simp] theorem State.setTcpuAcc_V (d : Duration) : (s.setTcpuAcc d).V = s.V := rfl
@[simp] theorem State.setTcpuAcc_I (d : Duration) : (s.setTcpuAcc d).I = s.I := rfl
@[simp] theorem State.setTcpuAcc_pc (d : Duration) : (s.setTcpuAcc d).pc = s.pc := rfl
@[simp] theorem State.setTcpuAcc_stack (d : Duration) : (s.setTcpuAcc d).stack = s.stack := rfl
@[simp] theorem State.setTcpuAcc_dt (d : Duration) : (s.setTcpuAcc d).dt = s.dt := rfl
@[simp] theorem State.setTcpuAcc_st (d : Duration) : (s.setTcpuAcc d).st = s.st := rfl
@[simp] theorem State.setTcpuAcc_fb (d : Duration) : (s.setTcpuAcc d).fb = s.fb := rfl
@[simp] theorem State.setTcpuAcc_keys (d : Duration) : (s.setTcpuAcc d).keys = s.keys := rfl
@[simp] theorem State.setTcpuAcc_latch (d : Duration) : (s.setTcpuAcc d).latch = s.latch := rfl
@[simp] theorem State.setTcpuAcc_t60Acc (d : Duration) : (s.setTcpuAcc d).t60Acc = s.t60Acc := rfl
@[simp] theorem State.setTcpuAcc_tcpuAcc (d : Duration) : (s.setTcpuAcc d).tcpuAcc = d := rfl
@[simp] theorem State.setTcpuAcc_cfg (d : Duration) : (s.setTcpuAcc d).cfg = s.cfg := rfl
@[simp] theorem State.setTcpuAcc_tickIn (d : Duration) : (s.setTcpuAcc d).tickIn = s.tickIn := rfl
@[simp] theorem State.setTcpuAcc_draws (d : Duration) : (s.setTcpuAcc d).draws = s.draws := rfl
@[simp] theorem State.setTcpuAcc_schedule (d : Duration) : (s.setTcpuAcc d).schedule = s.schedule := rfl
@[simp] theorem State.setTcpuAcc_idleDelta (d : Duration) : (s.setTcpuAcc d).idleDelta = s.idleDelta := rfl
@[simp] theorem State.setTcpuAcc_response (d : Duration) : (s.setTcpuAcc d).response = s.response := rfl
@[simp] theorem State.setTcpuAcc_v (d : Duration) (r : RegNum) : (s.setTcpuAcc d).v r = s.v r := rfl
@[simp] theorem State.setTcpuAcc_byteAt (d : Duration) (x : Nat) : (s.setTcpuAcc d).byteAt x = s.byteAt x := rfl

/-! ### setTickIn -/

@[simp] theorem State.setTickIn_mem (i : TickInput) : (s.setTickIn i).mem = s.mem := rfl
@[simp] theorem State.setTickIn_V (i : TickInput) : (s.setTickIn i).V = s.V := rfl
@[simp] theorem State.setTickIn_I (i : TickInput) : (s.setTickIn i).I = s.I := rfl
@[simp] theorem State.setTickIn_pc (i : TickInput) : (s.setTickIn i).pc = s.pc := rfl
@[simp] theorem State.setTickIn_stack (i : TickInput) : (s.setTickIn i).stack = s.stack := rfl
@[simp] theorem State.setTickIn_dt (i : TickInput) : (s.setTickIn i).dt = s.dt := rfl
@[simp] theorem State.setTickIn_st (i : TickInput) : (s.setTickIn i).st = s.st := rfl
@[simp] theorem State.setTickIn_fb (i : TickInput) : (s.setTickIn i).fb = s.fb := rfl
@[simp] theorem State.setTickIn_keys (i : TickInput) : (s.setTickIn i).keys = s.keys := rfl
@[simp] theorem State.setTickIn_latch (i : TickInput) : (s.setTickIn i).latch = s.latch := rfl
@[simp] theorem State.setTickIn_t60Acc (i : TickInput) : (s.setTickIn i).t60Acc = s.t60Acc := rfl
@[simp] theorem State.setTickIn_tcpuAcc (i : TickInput) : (s.setTickIn i).tcpuAcc = s.tcpuAcc := rfl
@[simp] theorem State.setTickIn_cfg (i : TickInput) : (s.setTickIn i).cfg = s.cfg := rfl
@[simp] theorem State.setTickIn_tickIn (i : TickInput) : (s.setTickIn i).tickIn = i := rfl
@[simp] theorem State.setTickIn_draws (i : TickInput) : (s.setTickIn i).draws = s.draws := rfl
@[simp] theorem State.setTickIn_schedule (i : TickInput) : (s.setTickIn i).schedule = s.schedule := rfl
@[simp] theorem State.setTickIn_idleDelta (i : TickInput) : (s.setTickIn i).idleDelta = s.idleDelta := rfl
@[simp] theorem State.setTickIn_response (i : TickInput) : (s.setTickIn i).response = s.response := rfl
@[simp] theorem State.setTickIn_v (i : TickInput) (r : RegNum) : (s.setTickIn i).v r = s.v r := rfl
@[simp] theorem State.setTickIn_byteAt (i : TickInput) (x : Nat) : (s.setTickIn i).byteAt x = s.byteAt x := rfl

/-! ### setDraws -/

@[simp] theorem State.setDraws_mem (n : Nat) : (s.setDraws n).mem = s.mem := rfl
@[simp] theorem State.setDraws_V (n : Nat) : (s.setDraws n).V = s.V := rfl
@[simp] theorem State.setDraws_I (n : Nat) : (s.setDraws n).I = s.I := rfl
@[simp] theorem State.setDraws_pc (n : Nat) : (s.setDraws n).pc = s.pc := rfl
@[simp] theorem State.setDraws_stack (n : Nat) : (s.setDraws n).stack = s.stack := rfl
@[simp] theorem State.setDraws_dt (n : Nat) : (s.setDraws n).dt = s.dt := rfl
@[simp] theorem State.setDraws_st (n : Nat) : (s.setDraws n).st = s.st := rfl
@[simp] theorem State.setDraws_fb (n : Nat) : (s.setDraws n).fb = s.fb := rfl
@[simp] theorem State.setDraws_keys (n : Nat) : (s.setDraws n).keys = s.keys := rfl
@[simp] theorem State.setDraws_latch (n : Nat) : (s.setDraws n).latch = s.latch := rfl
@[simp] theorem State.setDraws_t60Acc (n : Nat) : (s.setDraws n).t60Acc = s.t60Acc := rfl
@[simp] theorem State.setDraws_tcpuAcc (n : Nat) : (s.setDraws n).tcpuAcc = s.tcpuAcc := rfl
@[simp] theorem State.setDraws_cfg (n : Nat) : (s.setDraws n).cfg = s.cfg := rfl
@[simp] theorem State.setDraws_tickIn (n : Nat) : (s.setDraws n).tickIn = s.tickIn := rfl
@[simp] theorem State.setDraws_draws (n : Nat) : (s.setDraws n).draws = n := rfl
@[simp] theorem State.setDraws_schedule (n : Nat) : (s.setDraws n).schedule = s.schedule := rfl
@[simp] theorem State.setDraws_idleDelta (n : Nat) : (s.setDraws n).idleDelta = s.idleDelta := rfl
@[simp] theorem State.setDraws_response (n : Nat) : (s.setDraws n).response = s.response := rfl
@[simp] theorem State.setDraws_v (n : Nat) (r : RegNum) : (s.setDraws n).v r = s.v r := rfl
@[simp] theorem State.setDraws_byteAt (n : Nat) (x : Nat) : (s.setDraws n).byteAt x = s.byteAt x := rfl

/-! ### setSchedule -/

@[simp] theorem State.setSchedule_mem (ts : List Transaction) : (s.setSchedule ts).mem = s.mem := rfl
@[simp] theorem State.setSchedule_V (ts : List Transaction) : (s.setSchedule ts).V = s.V := rfl
@[simp] theorem State.setSchedule_I (ts : List Transaction) : (s.setSchedule ts).I = s.I := rfl
@[simp] theorem State.setSchedule_pc (ts : List Transaction) : (s.setSchedule ts).pc = s.pc := rfl
@[simp] theorem State.setSchedule_stack (ts : List Transaction) : (s.setSchedule ts).stack = s.stack := rfl
@[simp] theorem State.setSchedule_dt (ts : List Transaction) : (s.setSchedule ts).dt = s.dt := rfl
@[simp] theorem State.setSchedule_st (ts : List Transaction) : (s.setSchedule ts).st = s.st := rfl
@[simp] theorem State.setSchedule_fb (ts : List Transaction) : (s.setSchedule ts).fb = s.fb := rfl
@[simp] theorem State.setSchedule_keys (ts : List Transaction) : (s.setSchedule ts).keys = s.keys := rfl
@[simp] theorem State.setSchedule_latch (ts : List Transaction) : (s.setSchedule ts).latch = s.latch := rfl
@[simp] theorem State.setSchedule_t60Acc (ts : List Transaction) : (s.setSchedule ts).t60Acc = s.t60Acc := rfl
@[simp] theorem State.setSchedule_tcpuAcc (ts : List Transaction) : (s.setSchedule ts).tcpuAcc = s.tcpuAcc := rfl
@[simp] theorem State.setSchedule_cfg (ts : List Transaction) : (s.setSchedule ts).cfg = s.cfg := rfl
@[simp] theorem State.setSchedule_tickIn (ts : List Transaction) : (s.setSchedule ts).tickIn = s.tickIn := rfl
@[simp] theorem State.setSchedule_draws (ts : List Transaction) : (s.setSchedule ts).draws = s.draws := rfl
@[simp] theorem State.setSchedule_schedule (ts : List Transaction) : (s.setSchedule ts).schedule = ts := rfl
@[simp] theorem State.setSchedule_idleDelta (ts : List Transaction) : (s.setSchedule ts).idleDelta = s.idleDelta := rfl
@[simp] theorem State.setSchedule_response (ts : List Transaction) : (s.setSchedule ts).response = s.response := rfl
@[simp] theorem State.setSchedule_v (ts : List Transaction) (r : RegNum) : (s.setSchedule ts).v r = s.v r := rfl
@[simp] theorem State.setSchedule_byteAt (ts : List Transaction) (x : Nat) : (s.setSchedule ts).byteAt x = s.byteAt x := rfl

/-! ### setResponse -/

@[simp] theorem State.setResponse_mem (r : Response) : (s.setResponse r).mem = s.mem := rfl
@[simp] theorem State.setResponse_V (r : Response) : (s.setResponse r).V = s.V := rfl
@[simp] theorem State.setResponse_I (r : Response) : (s.setResponse r).I = s.I := rfl
@[simp] theorem State.setResponse_pc (r : Response) : (s.setResponse r).pc = s.pc := rfl
@[simp] theorem State.setResponse_stack (r : Response) : (s.setResponse r).stack = s.stack := rfl
@[simp] theorem State.setResponse_dt (r : Response) : (s.setResponse r).dt = s.dt := rfl
@[simp] theorem State.setResponse_st (r : Response) : (s.setResponse r).st = s.st := rfl
@[simp] theorem State.setResponse_fb (r : Response) : (s.setResponse r).fb = s.fb := rfl
@[simp] theorem State.setResponse_keys (r : Response) : (s.setResponse r).keys = s.keys := rfl
@[simp] theorem State.setResponse_latch (r : Response) : (s.setResponse r).latch = s.latch := rfl
@[simp] theorem State.setResponse_t60Acc (r : Response) : (s.setResponse r).t60Acc = s.t60Acc := rfl
@[simp] theorem State.setResponse_tcpuAcc (r : Response) : (s.setResponse r).tcpuAcc = s.tcpuAcc := rfl
@[simp] theorem State.setResponse_cfg (r : Response) : (s.setResponse r).cfg = s.cfg := rfl
@[simp] theorem State.setResponse_tickIn (r : Response) : (s.setResponse r).tickIn = s.tickIn := rfl
@[simp] theorem State.setResponse_draws (r : Response) : (s.setResponse r).draws = s.draws := rfl
@[simp] theorem State.setResponse_schedule (r : Response) : (s.setResponse r).schedule = s.schedule := rfl
@[simp] theorem State.setResponse_idleDelta (r : Response) : (s.setResponse r).idleDelta = s.idleDelta := rfl
@[simp] theorem State.setResponse_response (r : Response) : (s.setResponse r).response = r := rfl
@[simp] theorem State.setResponse_v (r : Response) (q : RegNum) : (s.setResponse r).v q = s.v q := rfl
@[simp] theorem State.setResponse_byteAt (r : Response) (x : Nat) : (s.setResponse r).byteAt x = s.byteAt x := rfl

/-! ### setV -/

@[simp] theorem State.setV_mem (r : RegNum) (b : Byte) : (s.setV r b).mem = s.mem := rfl
@[simp] theorem State.setV_I (r : RegNum) (b : Byte) : (s.setV r b).I = s.I := rfl
@[simp] theorem State.setV_pc (r : RegNum) (b : Byte) : (s.setV r b).pc = s.pc := rfl
@[simp] theorem State.setV_stack (r : RegNum) (b : Byte) : (s.setV r b).stack = s.stack := rfl
@[simp] theorem State.setV_dt (r : RegNum) (b : Byte) : (s.setV r b).dt = s.dt := rfl
@[simp] theorem State.setV_st (r : RegNum) (b : Byte) : (s.setV r b).st = s.st := rfl
@[simp] theorem State.setV_fb (r : RegNum) (b : Byte) : (s.setV r b).fb = s.fb := rfl
@[simp] theorem State.setV_keys (r : RegNum) (b : Byte) : (s.setV r b).keys = s.keys := rfl
@[simp] theorem State.setV_latch (r : RegNum) (b : Byte) : (s.setV r b).latch = s.latch := rfl
@[simp] theorem State.setV_t60Acc (r : RegNum) (b : Byte) : (s.setV r b).t60Acc = s.t60Acc := rfl
@[simp] theorem State.setV_tcpuAcc (r : RegNum) (b : Byte) : (s.setV r b).tcpuAcc = s.tcpuAcc := rfl
@[simp] theorem State.setV_cfg (r : RegNum) (b : Byte) : (s.setV r b).cfg = s.cfg := rfl
@[simp] theorem State.setV_tickIn (r : RegNum) (b : Byte) : (s.setV r b).tickIn = s.tickIn := rfl
@[simp] theorem State.setV_draws (r : RegNum) (b : Byte) : (s.setV r b).draws = s.draws := rfl
@[simp] theorem State.setV_schedule (r : RegNum) (b : Byte) : (s.setV r b).schedule = s.schedule := rfl
@[simp] theorem State.setV_idleDelta (r : RegNum) (b : Byte) : (s.setV r b).idleDelta = s.idleDelta := rfl
@[simp] theorem State.setV_response (r : RegNum) (b : Byte) : (s.setV r b).response = s.response := rfl
@[simp] theorem State.setV_byteAt (r : RegNum) (b : Byte) (x : Nat) : (s.setV r b).byteAt x = s.byteAt x := rfl

/-- Reading a register after a write: the written value at its own number, the old one elsewhere. -/
theorem State.v_setV (r q : RegNum) (b : Byte) : (s.setV r b).v q = if q = r then b else s.v q := by
  unfold State.v State.setV
  rw [Vector.getElem_set]
  by_cases h : r = q
  · subst h; simp
  · have : r.val ≠ q.val := fun e => h (Fin.ext e)
    simp [this, Ne.symm h]

@[simp] theorem State.v_setV_self (r : RegNum) (b : Byte) : (s.setV r b).v r = b := by
  simp [State.v_setV]

@[simp] theorem State.v_setV_of_ne (r q : RegNum) (b : Byte) (h : q ≠ r) : (s.setV r b).v q = s.v q := by
  simp [State.v_setV, h]

/-- Two register files with the same registers are the same vector. -/
theorem State.V_ext {s t : State} (h : ∀ r, s.v r = t.v r) : s.V = t.V := by
  apply Vector.ext
  intro i hi
  exact h ⟨i, hi⟩

/-- Writing back what a register holds changes nothing. -/
@[simp] theorem State.setV_v (r : RegNum) : s.setV r (s.v r) = s := by
  have hV : (s.setV r (s.v r)).V = s.V := by
    apply State.V_ext
    intro q
    rw [State.v_setV]
    split
    · subst_vars; rfl
    · rfl
  calc s.setV r (s.v r) = { s with V := (s.setV r (s.v r)).V } := rfl
    _ = s := by rw [hV]

end Sys2Proof.Machine
end

