-- ==== Sys2Proof/Laws/Memory.lean ====
section
/-! SUPPORT. Memory: what a read answers after a write, that every operation keeps the canonical form,
and that equal readings are equal memories; what the bounds-checked accesses of the state can do. -/

namespace Sys2Proof.Machine

variable (c : Configuration)

/-! ## The list of cells -/

theorem Memory.get_nil (a : Nat) : Memory.get c [] a = resetByte c a := rfl

theorem Memory.get_cons_cell (k : Nat) (b : Byte) (rest : Memory) (a : Nat) :
    Memory.get c ((k, b) :: rest) a = if k = a then b else Memory.get c rest a := by
  by_cases h : k = a <;> simp [Memory.get, Memory.find, h]

/-- Below the first address of a canonical memory, a byte reads as its reset contents. -/
theorem Memory.get_of_wfFrom {lo : Nat} {m : Memory} (h : Memory.wfFrom c lo m = true) {a : Nat}
    (ha : a < lo) : Memory.get c m a = resetByte c a := by
  induction m generalizing lo with
  | nil => rfl
  | cons cell rest ih =>
    obtain ⟨k, b⟩ := cell
    simp only [Memory.wfFrom, Bool.and_eq_true, decide_eq_true_eq] at h
    rw [Memory.get_cons_cell, if_neg (by omega)]
    exact ih h.2 (by omega)

theorem Memory.wfFrom_mono {lo lo' : Nat} {m : Memory} (h : Memory.wfFrom c lo m = true) (hl : lo' ≤ lo) :
    Memory.wfFrom c lo' m = true := by
  cases m with
  | nil => rfl
  | cons cell rest =>
    obtain ⟨k, b⟩ := cell
    simp only [Memory.wfFrom, Bool.and_eq_true, decide_eq_true_eq] at h ⊢
    exact ⟨⟨⟨by omega, h.1.1.2⟩, h.1.2⟩, h.2⟩

/-- A cell in front of a canonical memory reads as its byte, and the rest as before. -/
theorem Memory.get_cons {a : Nat} {b : Byte} {m : Memory} (h : Memory.wfFrom c (a + 1) m = true) (x : Nat) :
    Memory.get c (Memory.cons c a b m) x = if x = a then b else Memory.get c m x := by
  unfold Memory.cons
  split
  · rename_i hb
    split
    · subst_vars
      rw [Memory.get_of_wfFrom c h (by omega)]
    · rfl
  · rw [Memory.get_cons_cell]
    simp only [eq_comm]

theorem Memory.wfFrom_cons {lo a : Nat} {b : Byte} {m : Memory} (h : Memory.wfFrom c (a + 1) m = true)
    (hlo : lo ≤ a) (ha : a < memSize) : Memory.wfFrom c lo (Memory.cons c a b m) = true := by
  unfold Memory.cons
  split
  · exact Memory.wfFrom_mono c h (by omega)
  · rename_i hb
    simp [Memory.wfFrom, hlo, ha, hb, h]

/-- A write keeps the canonical form. -/
theorem Memory.wfFrom_put {lo : Nat} {m : Memory} (h : Memory.wfFrom c lo m = true) {a : Nat} (b : Byte)
    (hlo : lo ≤ a) (ha : a < memSize) : Memory.wfFrom c lo (Memory.put c m a b) = true := by
  induction m generalizing lo with
  | nil => exact Memory.wfFrom_cons c rfl hlo ha
  | cons cell rest ih =>
    obtain ⟨k, old⟩ := cell
    have h0 := h
    simp only [Memory.wfFrom, Bool.and_eq_true, decide_eq_true_eq] at h
    unfold Memory.put
    split
    · rename_i hk
      refine Memory.wfFrom_cons c ?_ hlo ha
      simp only [Memory.wfFrom, Bool.and_eq_true, decide_eq_true_eq]
      exact ⟨⟨⟨by omega, h.1.1.2⟩, h.1.2⟩, h.2⟩
    · split
      · rename_i hk
        subst hk
        exact Memory.wfFrom_cons c h.2 hlo ha
      · simp only [Memory.wfFrom, Bool.and_eq_true, decide_eq_true_eq]
        exact ⟨h.1, ih h.2 (by omega)⟩

/-- A read after a write to a canonical memory: the written byte at its address, the old one elsewhere. -/
theorem Memory.get_put_from {lo : Nat} {m : Memory} (h : Memory.wfFrom c lo m = true) (a : Nat) (b : Byte)
    (x : Nat) : Memory.get c (Memory.put c m a b) x = if x = a then b else Memory.get c m x := by
  induction m generalizing lo with
  | nil => exact Memory.get_cons c rfl x
  | cons cell rest ih =>
    obtain ⟨k, old⟩ := cell
    have h0 := h
    simp only [Memory.wfFrom, Bool.and_eq_true, decide_eq_true_eq] at h
    unfold Memory.put
    split
    · rename_i hk
      refine Memory.get_cons c ?_ x
      simp only [Memory.wfFrom, Bool.and_eq_true, decide_eq_true_eq]
      exact ⟨⟨⟨by omega, h.1.1.2⟩, h.1.2⟩, h.2⟩
    · split
      · rename_i hk
        subst hk
        rw [Memory.get_cons c h.2 x, Memory.get_cons_cell]
        split
        · rfl
        · rename_i hx
          rw [if_neg (Ne.symm hx)]
      · rename_i h1 h2
        rw [Memory.get_cons_cell, Memory.get_cons_cell, ih h.2]
        split
        · rename_i hx
          rw [if_neg (by omega)]
        · rfl

theorem Memory.get_put {m : Memory} (h : Memory.wf c m = true) (a : Nat) (b : Byte) (x : Nat) :
    Memory.get c (Memory.put c m a b) x = if x = a then b else Memory.get c m x :=
  Memory.get_put_from c h a b x

theorem Memory.wf_put {m : Memory} (h : Memory.wf c m = true) {a : Nat} (b : Byte) (ha : a < memSize) :
    Memory.wf c (Memory.put c m a b) = true :=
  Memory.wfFrom_put c h b (Nat.zero_le a) ha

theorem Memory.wf_nil : Memory.wf c [] = true := rfl

/-- Writing a run of bytes inside memory keeps the canonical form. -/
theorem Memory.wf_putAll {bs : List Byte} {m : Memory} (h : Memory.wf c m = true) {a : Nat}
    (ha : a + bs.length ≤ memSize) : Memory.wf c (Memory.putAll c m a bs) = true := by
  induction bs generalizing m a with
  | nil => exact h
  | cons b rest ih =>
    simp only [List.length_cons] at ha
    exact ih (Memory.wf_put c h b (by omega)) (by omega)

/-- A read after a run of writes inside memory. -/
theorem Memory.get_putAll {bs : List Byte} {m : Memory} (h : Memory.wf c m = true) {a : Nat}
    (ha : a + bs.length ≤ memSize) (x : Nat) :
    Memory.get c (Memory.putAll c m a bs) x =
      if a ≤ x then (bs[x - a]?).getD (Memory.get c m x) else Memory.get c m x := by
  induction bs generalizing m a with
  | nil => simp [Memory.putAll]
  | cons b rest ih =>
    simp only [List.length_cons] at ha
    rw [Memory.putAll, ih (Memory.wf_put c h b (by omega)) (by omega), Memory.get_put c h]
    by_cases h1 : a + 1 ≤ x
    · have h2 : x - a = (x - (a + 1)) + 1 := by omega
      have h3 : a ≤ x := by omega
      have h4 : x ≠ a := by omega
      simp only [h1, h3, h4, if_true, if_false, h2, List.getElem?_cons_succ]
    · by_cases h3 : x = a
      · subst h3; simp
      · rw [if_neg h1, if_neg h3, if_neg (by omega)]

/-- Canonical memories that read the same everywhere are the same list. -/
theorem Memory.ext_wfFrom {lo : Nat} {m m' : Memory} (h : Memory.wfFrom c lo m = true)
    (h' : Memory.wfFrom c lo m' = true) (e : ∀ a, Memory.get c m a = Memory.get c m' a) : m = m' := by
  induction m generalizing lo m' with
  | nil =>
    cases m' with
    | nil => rfl
    | cons cell rest =>
      obtain ⟨k, b⟩ := cell
      simp only [Memory.wfFrom, Bool.and_eq_true, decide_eq_true_eq] at h'
      have := e k
      rw [Memory.get_cons_cell, if_pos rfl, Memory.get_nil] at this
      exact absurd this.symm h'.1.2
  | cons cell rest ih =>
    obtain ⟨k, b⟩ := cell
    simp only [Memory.wfFrom, Bool.and_eq_true, decide_eq_true_eq] at h
    cases m' with
    | nil =>
      have := e k
      rw [Memory.get_cons_cell, if_pos rfl, Memory.get_nil] at this
      exact absurd this h.1.2
    | cons cell' rest' =>
      obtain ⟨k', b'⟩ := cell'
      simp only [Memory.wfFrom, Bool.and_eq_true, decide_eq_true_eq] at h'
      have hk : k = k' := by
        rcases Nat.lt_trichotomy k k' with hlt | heq | hgt
        · have := e k
          rw [Memory.get_cons_cell, if_pos rfl, Memory.get_cons_cell, if_neg (by omega),
            Memory.get_of_wfFrom c h'.2 (by omega)] at this
          exact absurd this h.1.2
        · exact heq
        · have := e k'
          rw [Memory.get_cons_cell, if_neg (by omega), Memory.get_cons_cell, if_pos rfl,
            Memory.get_of_wfFrom c h.2 (by omega)] at this
          exact absurd this.symm h'.1.2
      subst hk
      have hb : b = b' := by
        have := e k
        rwa [Memory.get_cons_cell, if_pos rfl, Memory.get_cons_cell, if_pos rfl] at this
      subst hb
      congr 1
      refine ih h.2 h'.2 fun a => ?_
      by_cases ha : a < k + 1
      · rw [Memory.get_of_wfFrom c h.2 ha, Memory.get_of_wfFrom c h'.2 ha]
      · have := e a
        rwa [Memory.get_cons_cell, if_neg (by omega), Memory.get_cons_cell, if_neg (by omega)] at this

/-! ## Accesses of the state -/

variable (s : State)

/-- A byte read answers the byte at its address exactly where the address is inside memory. -/
theorem State.memRead_eq_some {a : Nat} {b : Byte} :
    s.memRead a = some b ↔ a < memSize ∧ b = s.byteAt a := by
  unfold State.memRead
  split <;> rename_i h <;> simp [h, eq_comm]

theorem State.memRead_eq_none {a : Nat} : s.memRead a = none ↔ memSize ≤ a := by
  unfold State.memRead
  split <;> rename_i h
  · simp [h]
  · simpa using h

/-- A word read answers, most significant byte first, exactly where both addresses are inside memory. -/
theorem State.memReadWord_eq_some {a : Nat} {w : Word} :
    s.memReadWord a = some w ↔ a + 1 < memSize ∧ w = wordOfBytes (s.byteAt a) (s.byteAt (a + 1)) := by
  unfold State.memReadWord State.memRead
  by_cases h : a + 1 < memSize
  · rw [if_pos (by omega), if_pos h]
    simp [h, eq_comm]
  · rw [if_neg h]
    split <;> simp_all

theorem State.memReadWord_eq_none {a : Nat} : s.memReadWord a = none ↔ memSize ≤ a + 1 := by
  unfold State.memReadWord State.memRead
  by_cases h : a + 1 < memSize
  · rw [if_pos (by omega), if_pos h]
    simp
    omega
  · rw [if_neg h]
    split <;> simp_all

/-- A run of writes is one change of memory, where every address is inside memory, and no state where
one is not. -/
theorem State.memWriteAll_eq (a : Nat) (bs : List Byte) :
    s.memWriteAll a bs =
      if bs = [] ∨ a + bs.length ≤ memSize then some (s.setMem (s.mem.putAll s.cfg a bs)) else none := by
  induction bs generalizing s a with
  | nil => simp [State.memWriteAll, Memory.putAll, State.setMem]
  | cons b rest ih =>
    unfold State.memWriteAll State.memWrite
    by_cases h : a < memSize
    · rw [if_pos h]
      simp only [ih, List.length_cons, Memory.putAll, State.setMem_mem, State.setMem_cfg]
      by_cases hr : rest = []
      · subst hr
        simp only [true_or, if_true, Memory.putAll, List.length_nil, Nat.zero_add]
        rw [if_pos (Or.inr (by omega))]
        rfl
      · simp only [hr, false_or, reduceCtorEq]
        by_cases hl : a + 1 + rest.length ≤ memSize
        · rw [if_pos hl, if_pos (by omega)]
          rfl
        · rw [if_neg hl, if_neg (by omega)]
    · rw [if_neg h, if_neg]
      simp
      omega

/-- A byte after a run of writes inside memory: the written byte at its address, the old one elsewhere. -/
theorem State.byteAt_putAll (hw : s.mem.wf s.cfg = true) {a : Nat} {bs : List Byte}
    (ha : a + bs.length ≤ memSize) (x : Nat) :
    (s.setMem (s.mem.putAll s.cfg a bs)).byteAt x =
      if a ≤ x then (bs[x - a]?).getD (s.byteAt x) else s.byteAt x :=
  Memory.get_putAll s.cfg hw ha x

/-- The aborting accesses: a next state exactly where the accesses were inside memory. -/
theorem orOutOfBounds_eq_next {o : Option State} {t : State} : orOutOfBounds o = .next t ↔ o = some t := by
  cases o <;> simp [orOutOfBounds]

theorem orStackOverflow_eq_next {o : Option State} {t : State} : orStackOverflow o = .next t ↔ o = some t := by
  cases o <;> simp [orStackOverflow]

/-- What a push can do. -/
theorem State.push_eq (v : Word) :
    s.push v = if s.stack.length = stackSlots then none else some (s.setStack (v :: s.stack)) := rfl

/-- What a pop can do. -/
theorem State.pop_eq_some {a : Word} {t : State} :
    s.pop = some (a, t) ↔ ∃ rest, s.stack = a :: rest ∧ t = s.setStack rest := by
  unfold State.pop
  split <;> rename_i h <;> simp [h, eq_comm]

theorem State.pop_eq_none : s.pop = none ↔ s.stack = [] := by
  unfold State.pop
  split <;> rename_i h <;> simp [h]

end Sys2Proof.Machine
end

