-- ==== Sys2Proof/Laws/Display.lean ====
section
/-! SUPPORT. The framebuffer: reading a pixel after a toggle or a clear, and what one sprite row does. -/

namespace Sys2Proof.Machine

theorem pixel_off_screen (f : Framebuffer) {y x : Nat} (h : ¬(y < 32 ∧ x < 64)) : pixel f y x = false := by
  simp only [pixel, dif_neg h]

/-- A cleared framebuffer has no lit pixel. -/
@[simp] theorem pixel_clear (y x : Nat) : pixel clearFramebuffer y x = false := by
  unfold pixel clearFramebuffer
  split <;> simp

/-- A toggle changes its own pixel, where it is on the screen, and no other. -/
theorem pixel_toggle (f : Framebuffer) (y x y' x' : Nat) :
    pixel (togglePixel f y x) y' x' =
      if y' = y ∧ x' = x ∧ y < 32 ∧ x < 64 then !(pixel f y' x') else pixel f y' x' := by
  unfold togglePixel
  by_cases h : y < 32 ∧ x < 64
  · rw [dif_pos h]
    by_cases h' : y' < 32 ∧ x' < 64
    · simp only [pixel, dif_pos h', Vector.getElem_set]
      by_cases hy : y = y'
      · subst hy
        simp only [if_true, Vector.getElem_set]
        by_cases hx : x = x'
        · subst hx; simp [h]
        · simp [hx, Ne.symm hx]
      · simp [hy, Ne.symm hy]
    · rw [pixel_off_screen _ h', pixel_off_screen _ h', if_neg]
      rintro ⟨rfl, rfl, h2⟩
      exact h' h2
  · rw [dif_neg h, if_neg (fun hh => h hh.2.2)]

/-- Framebuffers with the same pixels are equal. -/
theorem framebuffer_ext {f g : Framebuffer} (h : ∀ y x, pixel f y x = pixel g y x) : f = g := by
  apply Vector.ext
  intro y hy
  apply Vector.ext
  intro x hx
  have := h y x
  simpa only [pixel, hy, hx, and_self, dite_true] using this

/-- The pixels that the columns `col` to `col + n - 1` of a sprite byte set, clipped at the right edge. -/
def columnSets (x0 : Nat) (b : Byte) (col n x : Nat) : Bool :=
  decide (x0 + col ≤ x ∧ x < x0 + col + n ∧ x < 64) && spriteBit b (x - x0)

/-- One sprite row toggles exactly the pixels its bits set. -/
theorem Canvas.pixel_drawColumns (c : Canvas) (y x0 : Nat) (b : Byte) (col n : Nat) (hy : y < 32)
    (y' x' : Nat) :
    pixel (c.drawColumns y x0 b col n).fb y' x' =
      ((pixel c.fb y' x') ^^ (decide (y' = y) && columnSets x0 b col n x')) := by
  induction n generalizing c col with
  | zero =>
    have h0 : ¬(x0 + col ≤ x' ∧ x' < x0 + col + 0 ∧ x' < 64) := by omega
    simp only [Canvas.drawColumns, columnSets, h0, decide_false, Bool.false_and, Bool.and_false, Bool.xor_false]
  | succ n ih =>
    unfold Canvas.drawColumns
    split
    · have h0 : ¬(x0 + col ≤ x' ∧ x' < x0 + col + (n + 1) ∧ x' < 64) := by omega
      simp [columnSets, h0]
    · rename_i hx
      have hstep : columnSets x0 b col (n + 1) x' =
          ((decide (x' = x0 + col) && spriteBit b col) || columnSets x0 b (col + 1) n x') := by
        unfold columnSets
        by_cases he : x' = x0 + col
        · subst he
          have h1 : x0 + col - x0 = col := by omega
          have h2 : ¬(x0 + (col + 1) ≤ x0 + col) := by omega
          have h3 : x0 + col < x0 + col + (n + 1) := by omega
          have h4 : x0 + col < 64 := by omega
          simp [h1, h2, h3, h4]
        · have h1 : (x0 + col ≤ x' ∧ x' < x0 + col + (n + 1) ∧ x' < 64) ↔
              (x0 + (col + 1) ≤ x' ∧ x' < x0 + (col + 1) + n ∧ x' < 64) := by omega
          simp [he, h1]
      have hlast : columnSets x0 b (col + 1) n (x0 + col) = false := by
        have h2 : ¬(x0 + (col + 1) ≤ x0 + col) := by omega
        simp [columnSets, h2]
      split
      · rename_i hb
        rw [ih, hstep]
        simp only [Canvas.flip, pixel_toggle]
        by_cases hp : y' = y ∧ x' = x0 + col
        · obtain ⟨rfl, rfl⟩ := hp
          have h4 : x0 + col < 64 := by omega
          simp [hlast, hb, hy, h4]
        · by_cases hyy : y' = y
          · have hxx : x' ≠ x0 + col := fun e => hp ⟨hyy, e⟩
            simp [hyy, hxx]
          · simp [hyy]
      · rename_i hb
        rw [ih, hstep]
        simp [hb]

/-- One sprite row records a collision exactly where a pixel it sets was lit. -/
theorem Canvas.collided_drawColumns (c : Canvas) (y x0 : Nat) (b : Byte) (col n : Nat) :
    (c.drawColumns y x0 b col n).collided = true ↔
      c.collided = true ∨ ∃ x, columnSets x0 b col n x = true ∧ pixel c.fb y x = true := by
  induction n generalizing c col with
  | zero =>
    simp only [Canvas.drawColumns, columnSets]
    constructor
    · exact Or.inl
    · rintro (h | ⟨x, h, -⟩)
      · exact h
      · simp only [Bool.and_eq_true, decide_eq_true_eq] at h
        omega
  | succ n ih =>
    unfold Canvas.drawColumns
    split
    · constructor
      · exact Or.inl
      · rintro (h | ⟨x, h, -⟩)
        · exact h
        · simp only [columnSets, Bool.and_eq_true, decide_eq_true_eq] at h
          omega
    · rename_i hx
      have hrest : ∀ x, columnSets x0 b (col + 1) n x = true →
          columnSets x0 b col (n + 1) x = true ∧ x ≠ x0 + col := by
        intro x h
        simp only [columnSets, Bool.and_eq_true, decide_eq_true_eq] at h ⊢
        refine ⟨⟨by omega, h.2⟩, by omega⟩
      have hsplit : ∀ x, columnSets x0 b col (n + 1) x = true →
          (x = x0 + col ∧ spriteBit b col = true) ∨ columnSets x0 b (col + 1) n x = true := by
        intro x h
        simp only [columnSets, Bool.and_eq_true, decide_eq_true_eq] at h ⊢
        by_cases he : x = x0 + col
        · left
          refine ⟨he, ?_⟩
          have : x - x0 = col := by omega
          rw [← this]; exact h.2
        · right; exact ⟨by omega, h.2⟩
      have hpix : ∀ x, x ≠ x0 + col → pixel (c.flip y (x0 + col)).fb y x = pixel c.fb y x := by
        intro x hne
        simp only [Canvas.flip, pixel_toggle]
        rw [if_neg]
        rintro ⟨-, h, -⟩
        exact hne h
      split
      · rename_i hb
        rw [ih]
        simp only [Canvas.flip, Bool.or_eq_true]
        constructor
        · rintro ((h | h) | ⟨x, h, hp⟩)
          · exact Or.inl h
          · refine Or.inr ⟨x0 + col, ?_, h⟩
            have h1 : x0 + col - x0 = col := by omega
            simp only [columnSets, Bool.and_eq_true, decide_eq_true_eq, h1]
            exact ⟨by omega, hb⟩
          · have hh := hrest x h
            exact Or.inr ⟨x, hh.1, by rw [← hpix x hh.2]; exact hp⟩
        · rintro (h | ⟨x, h, hp⟩)
          · exact Or.inl (Or.inl h)
          · rcases hsplit x h with ⟨rfl, -⟩ | h'
            · exact Or.inl (Or.inr hp)
            · exact Or.inr ⟨x, h', by rw [show togglePixel c.fb y (x0 + col) = (c.flip y (x0 + col)).fb from rfl, hpix x (hrest x h').2]; exact hp⟩
      · rename_i hb
        rw [ih]
        constructor
        · rintro (h | ⟨x, h, hp⟩)
          · exact Or.inl h
          · exact Or.inr ⟨x, (hrest x h).1, hp⟩
        · rintro (h | ⟨x, h, hp⟩)
          · exact Or.inl h
          · rcases hsplit x h with ⟨-, hb'⟩ | h'
            · exact absurd hb' hb
            · exact Or.inr ⟨x, h', hp⟩

/-- A sprite finds its rows exactly where every row on the screen lies inside memory. -/
theorem drawRows_isSome (s : State) (y0 x0 : Nat) (c : Canvas) (row n : Nat) :
    (drawRows s y0 x0 c row n).isSome = true ↔
      ∀ k, k < n → y0 + row + k < 32 → s.I.toNat + row + k < memSize := by
  induction n generalizing c row with
  | zero => simp [drawRows]
  | succ n ih =>
    unfold drawRows
    split
    · simp
      intro k _ _
      omega
    · split
      · rename_i b hb
        have hm := ((State.memRead_eq_some s).1 hb).1
        rw [ih]
        constructor
        · intro h k hk hy
          rcases k with _ | k
          · exact hm
          · have := h k (by omega) (by omega)
            omega
        · intro h k hk hy
          have := h (k + 1) (by omega) (by omega)
          omega
      · rename_i hb
        have hm := (State.memRead_eq_none s).1 hb
        simp
        exact ⟨0, by omega, by omega, by omega⟩

end Sys2Proof.Machine
end

