-- ==== Sys2Proof/Laws/PerInstr.lean ====
section
/-! SUPPORT. Statements about every instruction as syntax, one lemma per constructor. -/

namespace Sys2Proof.Laws.TableRow

/-- The word of an instruction fits its row of rule R96, and the row is one of the table's. -/
def Statement (i : Instr) : Prop := encode i &&& i.row.mask = i.row.value ∧ i.row ∈ opcodeTable

theorem cls : Statement (.cls) :=
  ⟨by decide, by decide⟩

theorem ret : Statement (.ret) :=
  ⟨by decide, by decide⟩

theorem jpAddr (nnn : BitVec 12) : Statement (.jpAddr nnn) :=
  ⟨(Sys2Proof.formatA_masked _ _).trans rfl, by change Row.mk _ _ ∈ opcodeTable; decide⟩

theorem callAddr (nnn : BitVec 12) : Statement (.callAddr nnn) :=
  ⟨(Sys2Proof.formatA_masked _ _).trans rfl, by change Row.mk _ _ ∈ opcodeTable; decide⟩

theorem seVxByte (x : RegNum) (nn : Byte) : Statement (.seVxByte x nn) :=
  ⟨(Sys2Proof.formatXB_masked _ _ _).trans rfl, by change Row.mk _ _ ∈ opcodeTable; decide⟩

theorem sneVxByte (x : RegNum) (nn : Byte) : Statement (.sneVxByte x nn) :=
  ⟨(Sys2Proof.formatXB_masked _ _ _).trans rfl, by change Row.mk _ _ ∈ opcodeTable; decide⟩

theorem seVxVy (x y : RegNum) : Statement (.seVxVy x y) :=
  ⟨(Sys2Proof.formatXYN_masked_function _ _ _ _).trans rfl, by change Row.mk _ _ ∈ opcodeTable; decide⟩

theorem ldVxByte (x : RegNum) (nn : Byte) : Statement (.ldVxByte x nn) :=
  ⟨(Sys2Proof.formatXB_masked _ _ _).trans rfl, by change Row.mk _ _ ∈ opcodeTable; decide⟩

theorem addVxByte (x : RegNum) (nn : Byte) : Statement (.addVxByte x nn) :=
  ⟨(Sys2Proof.formatXB_masked _ _ _).trans rfl, by change Row.mk _ _ ∈ opcodeTable; decide⟩

theorem ldVxVy (x y : RegNum) : Statement (.ldVxVy x y) :=
  ⟨(Sys2Proof.formatXYN_masked_function _ _ _ _).trans rfl, by change Row.mk _ _ ∈ opcodeTable; decide⟩

theorem orVxVy (x y : RegNum) : Statement (.orVxVy x y) :=
  ⟨(Sys2Proof.formatXYN_masked_function _ _ _ _).trans rfl, by change Row.mk _ _ ∈ opcodeTable; decide⟩

theorem andVxVy (x y : RegNum) : Statement (.andVxVy x y) :=
  ⟨(Sys2Proof.formatXYN_masked_function _ _ _ _).trans rfl, by change Row.mk _ _ ∈ opcodeTable; decide⟩

theorem xorVxVy (x y : RegNum) : Statement (.xorVxVy x y) :=
  ⟨(Sys2Proof.formatXYN_masked_function _ _ _ _).trans rfl, by change Row.mk _ _ ∈ opcodeTable; decide⟩

theorem addVxVy (x y : RegNum) : Statement (.addVxVy x y) :=
  ⟨(Sys2Proof.formatXYN_masked_function _ _ _ _).trans rfl, by change Row.mk _ _ ∈ opcodeTable; decide⟩

theorem subVxVy (x y : RegNum) : Statement (.subVxVy x y) :=
  ⟨(Sys2Proof.formatXYN_masked_function _ _ _ _).trans rfl, by change Row.mk _ _ ∈ opcodeTable; decide⟩

theorem shrVxVy (x y : RegNum) : Statement (.shrVxVy x y) :=
  ⟨(Sys2Proof.formatXYN_masked_function _ _ _ _).trans rfl, by change Row.mk _ _ ∈ opcodeTable; decide⟩

theorem subnVxVy (x y : RegNum) : Statement (.subnVxVy x y) :=
  ⟨(Sys2Proof.formatXYN_masked_function _ _ _ _).trans rfl, by change Row.mk _ _ ∈ opcodeTable; decide⟩

theorem shlVxVy (x y : RegNum) : Statement (.shlVxVy x y) :=
  ⟨(Sys2Proof.formatXYN_masked_function _ _ _ _).trans rfl, by change Row.mk _ _ ∈ opcodeTable; decide⟩

theorem sneVxVy (x y : RegNum) : Statement (.sneVxVy x y) :=
  ⟨(Sys2Proof.formatXYN_masked_function _ _ _ _).trans rfl, by change Row.mk _ _ ∈ opcodeTable; decide⟩

theorem ldIAddr (nnn : BitVec 12) : Statement (.ldIAddr nnn) :=
  ⟨(Sys2Proof.formatA_masked _ _).trans rfl, by change Row.mk _ _ ∈ opcodeTable; decide⟩

theorem jpV0Addr (nnn : BitVec 12) : Statement (.jpV0Addr nnn) :=
  ⟨(Sys2Proof.formatA_masked _ _).trans rfl, by change Row.mk _ _ ∈ opcodeTable; decide⟩

theorem rndVxByte (x : RegNum) (nn : Byte) : Statement (.rndVxByte x nn) :=
  ⟨(Sys2Proof.formatXB_masked _ _ _).trans rfl, by change Row.mk _ _ ∈ opcodeTable; decide⟩

theorem drwVxVyNibble (x y : RegNum) (n : Nibble) : Statement (.drwVxVyNibble x y n) :=
  ⟨(Sys2Proof.formatXYN_masked _ _ _ _).trans rfl, by change Row.mk _ _ ∈ opcodeTable; decide⟩

theorem skpVx (x : RegNum) : Statement (.skpVx x) :=
  ⟨(Sys2Proof.formatXB_masked_function _ _ _).trans rfl, by change Row.mk _ _ ∈ opcodeTable; decide⟩

theorem sknpVx (x : RegNum) : Statement (.sknpVx x) :=
  ⟨(Sys2Proof.formatXB_masked_function _ _ _).trans rfl, by change Row.mk _ _ ∈ opcodeTable; decide⟩

theorem ldVxDT (x : RegNum) : Statement (.ldVxDT x) :=
  ⟨(Sys2Proof.formatXB_masked_function _ _ _).trans rfl, by change Row.mk _ _ ∈ opcodeTable; decide⟩

theorem ldVxK (x : RegNum) : Statement (.ldVxK x) :=
  ⟨(Sys2Proof.formatXB_masked_function _ _ _).trans rfl, by change Row.mk _ _ ∈ opcodeTable; decide⟩

theorem ldDTVx (x : RegNum) : Statement (.ldDTVx x) :=
  ⟨(Sys2Proof.formatXB_masked_function _ _ _).trans rfl, by change Row.mk _ _ ∈ opcodeTable; decide⟩

theorem ldSTVx (x : RegNum) : Statement (.ldSTVx x) :=
  ⟨(Sys2Proof.formatXB_masked_function _ _ _).trans rfl, by change Row.mk _ _ ∈ opcodeTable; decide⟩

theorem addIVx (x : RegNum) : Statement (.addIVx x) :=
  ⟨(Sys2Proof.formatXB_masked_function _ _ _).trans rfl, by change Row.mk _ _ ∈ opcodeTable; decide⟩

theorem ldFVx (x : RegNum) : Statement (.ldFVx x) :=
  ⟨(Sys2Proof.formatXB_masked_function _ _ _).trans rfl, by change Row.mk _ _ ∈ opcodeTable; decide⟩

theorem ldBVx (x : RegNum) : Statement (.ldBVx x) :=
  ⟨(Sys2Proof.formatXB_masked_function _ _ _).trans rfl, by change Row.mk _ _ ∈ opcodeTable; decide⟩

theorem ldMemVx (x : RegNum) : Statement (.ldMemVx x) :=
  ⟨(Sys2Proof.formatXB_masked_function _ _ _).trans rfl, by change Row.mk _ _ ∈ opcodeTable; decide⟩

theorem ldVxMem (x : RegNum) : Statement (.ldVxMem x) :=
  ⟨(Sys2Proof.formatXB_masked_function _ _ _).trans rfl, by change Row.mk _ _ ∈ opcodeTable; decide⟩

end Sys2Proof.Laws.TableRow
end

