-- ==== Sys2Proof/Laws/Registers.lean ====
section
/-! SUPPORT. The register block of FX55 and FX65, and a key's state. -/

namespace Sys2Proof.Machine

variable (s : State)

@[simp] theorem State.length_regsUpTo (x : RegNum) : (s.regsUpTo x).length = x.val + 1 := by
  have := x.isLt
  simp [State.regsUpTo]

/-- The `i`-th byte of the block is register `i`, and there are `X + 1` of them. -/
theorem State.getElem?_regsUpTo (x : RegNum) (i : RegNum) :
    (s.regsUpTo x)[i.val]? = if i.val ≤ x.val then some (s.v i) else none := by
  have hi := i.isLt
  unfold State.regsUpTo State.v
  by_cases h : i.val ≤ x.val
  · rw [if_pos h, List.getElem?_take_of_lt (by omega)]
    simp [hi]
  · rw [if_neg h, List.getElem?_eq_none]
    simp
    omega

/-- What loading a block of registers can do: the registers of the block take the bytes of their
addresses, and nothing else changes. -/
theorem State.loadRegs_eq_some {i n : Nat} {t : State} (hn : i + n ≤ 16) (h : s.loadRegs i n = some t) :
    t = { s with V := t.V } ∧
      ∀ r : RegNum, t.v r = if i ≤ r.val ∧ r.val < i + n then s.byteAt (s.I.toNat + r.val) else s.v r := by
  induction n generalizing s i with
  | zero =>
    simp only [State.loadRegs, Option.some.injEq] at h
    subst h
    exact ⟨rfl, fun r => by rw [if_neg (by omega)]⟩
  | succ n ih =>
    unfold State.loadRegs at h
    split at h
    · rename_i b hb
      obtain ⟨ht, hv⟩ := ih (s.setV (Fin.ofNat 16 i) b) (i := i + 1) (by omega) h
      refine ⟨by rw [ht]; rfl, fun r => ?_⟩
      have hb' := ((State.memRead_eq_some s).1 hb).2
      have hi : (Fin.ofNat 16 i).val = i := by simp [Fin.ofNat]; omega
      rw [hv r, State.setV_byteAt, State.setV_I]
      by_cases hr : r.val = i
      · have : r = Fin.ofNat 16 i := Fin.ext (by rw [hi]; exact hr)
        rw [if_neg (by omega), this, State.v_setV_self, hi, if_pos (by omega), hb']
      · have : r ≠ Fin.ofNat 16 i := fun e => hr (by rw [e, hi])
        rw [State.v_setV_of_ne _ _ _ _ this]
        have : (i + 1 ≤ r.val ∧ r.val < i + 1 + n) ↔ (i ≤ r.val ∧ r.val < i + (n + 1)) := by omega
        simp only [this]
    · simp at h

/-- A block load finds all its bytes exactly where the last address is inside memory. -/
theorem State.loadRegs_isSome (i n : Nat) :
    (s.loadRegs i n).isSome = true ↔ n = 0 ∨ s.I.toNat + i + n ≤ memSize := by
  induction n generalizing s i with
  | zero => simp [State.loadRegs]
  | succ n ih =>
    unfold State.loadRegs
    by_cases hb : s.I.toNat + i < memSize
    · have : s.memRead (s.dataAddr i) = some (s.byteAt (s.dataAddr i)) :=
        (State.memRead_eq_some s).2 ⟨hb, rfl⟩
      rw [this]
      simp only [ih, State.setV_I]
      omega
    · have : s.memRead (s.dataAddr i) = none := (State.memRead_eq_none s).2 (by unfold State.dataAddr; omega)
      rw [this]
      simp
      omega

theorem State.keyState_eq_some {k : Byte} {b : Bool} :
    s.keyState k = some b ↔ ∃ h : k.toNat < 16, s.keys[k.toNat] = b := by
  unfold State.keyState
  split <;> rename_i h <;> simp [h]

theorem State.keyState_eq_none {k : Byte} : s.keyState k = none ↔ 16 ≤ k.toNat := by
  unfold State.keyState
  split <;> rename_i h <;> simp [h]
  omega

end Sys2Proof.Machine
end

