-- ==== Sys2Proof/Laws/Tick.lean ====
section
/-! SUPPORT. Durations as rationals, the Timer, and what one TICK can do. -/

namespace Sys2Proof.Machine

@[simp] theorem durationAdd_eq_add (a b : Duration) : durationAdd a b = a + b := by
  simp [durationAdd, Rat.add_def']

@[simp] theorem durationReaches_eq (a p : Duration) : durationReaches a p = decide (p ≤ a) := by
  simp [durationReaches, Rat.le_iff]

theorem t60Period_eq : t60Period = 1 / 60 := by
  rw [t60Period, Rat.mkRat_eq_div]; norm_num

theorem cpuPeriod_eq (c : Configuration) : cpuPeriod c = 1 / (c.ips : Rat) := by
  rw [cpuPeriod, Rat.mkRat_eq_div]; norm_num

theorem deltaLegal_iff (d : Duration) : deltaLegal d = true ↔ 0 ≤ d := by
  simp [deltaLegal]

/-- The Timer of rule R244 in rationals. -/
theorem timerCheck_eq (p a d : Duration) :
    timerCheck p a d = if p ≤ a + d then (true, 0) else (false, a + d) := by
  simp [timerCheck]

/-- After a check the accumulator is below the period, and not negative if it was not before. -/
theorem timerCheck_bounds {p a d : Duration} (hp : 0 < p) (ha : 0 ≤ a) (hd : 0 ≤ d) :
    0 ≤ (timerCheck p a d).2 ∧ (timerCheck p a d).2 < p := by
  rw [timerCheck_eq]
  split
  · exact ⟨le_refl _, hp⟩
  · rename_i h
    exact ⟨by dsimp only; linarith, not_le.1 h⟩

/-- What step 2 of a TICK does: one fire empties `T60.acc` and counts both counters down, else the
accumulator grows. -/
theorem State.tickT60_eq (s : State) (d : Duration) :
    s.tickT60 d =
      if 1 / 60 ≤ s.t60Acc + d then (s.setT60Acc 0).decrementTimers else s.setT60Acc (s.t60Acc + d) := by
  unfold State.tickT60
  rw [timerCheck_eq, t60Period_eq]
  by_cases h : 1 / 60 ≤ s.t60Acc + d
  · rw [if_pos h, if_pos h]; rfl
  · rw [if_neg h, if_neg h]; rfl

theorem countDown_toNat (c : Byte) : (countDown c).toNat = c.toNat - 1 := by
  unfold countDown
  split
  · subst_vars; rfl
  · rename_i h
    have : c.toNat ≠ 0 := fun e => h (BitVec.eq_of_toNat_eq e)
    have := c.isLt
    rw [BitVec.toNat_sub]
    simp
    omega

/-- What step 2 of a TICK leaves alone: everything but `T60.acc`, `dt` and `st`. -/
theorem State.tickT60_frame (s : State) (d : Duration) :
    s.tickT60 d =
      { s with t60Acc := (s.tickT60 d).t60Acc, dt := (s.tickT60 d).dt, st := (s.tickT60 d).st } := by
  unfold State.tickT60
  split
  split <;> rfl

/-- A TICK ends in a next state exactly where its last step does. -/
theorem endTick_eq_next {r : Result} {t : State} :
    endTick r = .next t ↔ ∃ u, r = .next u ∧ t = u.setTickIn .idle := by
  cases r <;> simp [endTick, eq_comm]

/-- The instruction cycle: an abort where the fetch is out of bounds, else the dispatch of the fetched
word with `pc` advanced. -/
theorem instructionCycle_eq (s : State) :
    instructionCycle s =
      if s.pc.toNat + 1 < memSize then
        dispatch (wordOfBytes (s.byteAt s.pc.toNat) (s.byteAt (s.pc.toNat + 1))) (s.setPc (s.pc + 2))
      else .fault .outOfBounds := by
  unfold instructionCycle State.fetch
  split
  · rename_i w h
    obtain ⟨h1, h2⟩ := (State.memReadWord_eq_some s).1 h
    rw [if_pos h1, h2]
  · rename_i h
    have := (State.memReadWord_eq_none s).1 h
    rw [if_neg (by omega)]

/-- A word is dispatched to the instruction it decodes to, or raises `InvalidInstruction`. -/
theorem dispatch_of_decode {w : Word} {i : Instr} (h : decode w = some i) (s : State) :
    dispatch w s = exec i s := by
  simp [dispatch, h]

theorem dispatch_of_illegal {w : Word} (h : decode w = none) (s : State) :
    dispatch w s = raiseFault .invalidInstruction (n0 w) (n1 w) (n2 w) (n3 w) s := by
  simp [dispatch, h]

/-- What a TICK with a legal `delta` does: one instruction cycle where the CPU Timer fires, else nothing but
steps 1 and 2 and the accumulator. -/
theorem runTick_eq (s : State) {d : Duration} (e : Byte) (h : 0 ≤ d) :
    runTick d e s =
      if 1 / (s.cfg.ips : Rat) ≤ s.tcpuAcc + d then
        endTick (instructionCycle (((s.captureLatch e).tickT60 d).setTcpuAcc 0))
      else .next ((((s.captureLatch e).tickT60 d).setTcpuAcc (s.tcpuAcc + d)).setTickIn .idle) := by
  have hc : ((s.captureLatch e).tickT60 d).cfg = s.cfg := by rw [State.tickT60_frame]; rfl
  have ha : ((s.captureLatch e).tickT60 d).tcpuAcc = s.tcpuAcc := by rw [State.tickT60_frame]; rfl
  unfold runTick
  rw [if_pos ((deltaLegal_iff d).2 h)]
  simp only [State.tickCpu, timerCheck_eq, cpuPeriod_eq, hc, ha]
  by_cases hf : 1 / (s.cfg.ips : Rat) ≤ s.tcpuAcc + d
  · simp only [if_pos hf]; rfl
  · simp only [if_neg hf]; rfl

/-- Taking the next transaction changes the schedule only. -/
theorem State.takeTransaction_frame (s : State) :
    s.takeTransaction.2 = s.setSchedule s.takeTransaction.2.schedule := by
  unfold State.takeTransaction
  split <;> rfl

end Sys2Proof.Machine
end

