-- ==== Sys2Proof/Tests/Slice0.lean ====
section
/-! SUPPORT. The model's own tests: what WellFormed refuses, the words written out from rule R96, one step of
every instruction against the vectors of 95_test_vectors.md, and for every statement with hypotheses a state
that meets them. -/

namespace Sys2Proof.Tests

open Sys2Proof.Machine Sys2Proof.Claims

/-! ## WellFormed: one ill-formed term for each check (rules R252, R255, R281) -/

theorem test_refuses_zero_ips : ({ Configuration.default with ips := 0 } : Configuration).ipsLegal = false := by
  decide

theorem test_refuses_font_past_memory :
    ({ Configuration.default with fontStart := 0xFB1 } : Configuration).fontLegal = false := by decide

theorem test_refuses_program_start_0xFFF :
    ({ Configuration.default with programStart := 0xFFF } : Configuration).programLegal = false := by decide

theorem test_refuses_illegal_configuration :
    ({ Configuration.default with programStart := 0xFFF } : Configuration).legal = false ∧
      Transaction.legal .default (.reset { Configuration.default with ips := 0 }) = false := by decide

theorem test_refuses_long_load :
    loadFits { Configuration.default with programStart := 0xFFE } [1, 2, 3] = false ∧
      loadFits { Configuration.default with programStart := 0xFFE } [1, 2] = true := by decide

theorem test_refuses_negative_delta : deltaLegal (mkRat (-1) 700) = false ∧ deltaLegal 0 = true := by decide

theorem test_step_refuses_broken_duties :
    step (State.reset.setSchedule [.tick (mkRat (-1) 2) 0]) = .refused .negativeDelta ∧
      step (State.reset.setSchedule [.reset { Configuration.default with ips := 0 }]) =
        .refused .illegalConfiguration := ⟨rfl, rfl⟩

/-! ## Decoding: a word of every row of rule R96, written out from its pattern -/

theorem test_decode_format_Z :
    decode 0b0000000011100000 = some .cls ∧ decode 0b0000000011101110 = some .ret := by decide

theorem test_decode_format_A :
    decode 0b0001101010111100 = some (.jpAddr 0xABC) ∧ decode 0b0010101010111100 = some (.callAddr 0xABC) ∧
      decode 0b1010001011110000 = some (.ldIAddr 0x2F0) ∧
      decode 0b1011001100000000 = some (.jpV0Addr 0x300) := by decide

theorem test_decode_format_XB :
    decode 0b0011001101000010 = some (.seVxByte 3 0x42) ∧ decode 0b0100101000010000 = some (.sneVxByte 10 0x10) ∧
      decode 0b0110101011111111 = some (.ldVxByte 10 0xFF) ∧
      decode 0b0111000100000011 = some (.addVxByte 1 0x03) ∧
      decode 0b1100001100001111 = some (.rndVxByte 3 0x0F) := by decide

theorem test_decode_format_XYF :
    decode 0b0101001101000000 = some (.seVxVy 3 4) ∧ decode 0b1000000100100000 = some (.ldVxVy 1 2) ∧
      decode 0b1000000100100001 = some (.orVxVy 1 2) ∧ decode 0b1000000100100010 = some (.andVxVy 1 2) ∧
      decode 0b1000000100100011 = some (.xorVxVy 1 2) ∧ decode 0b1000101010110100 = some (.addVxVy 10 11) ∧
      decode 0b1000000100100101 = some (.subVxVy 1 2) ∧ decode 0b1000000100100110 = some (.shrVxVy 1 2) ∧
      decode 0b1000000100100111 = some (.subnVxVy 1 2) ∧ decode 0b1000000100101110 = some (.shlVxVy 1 2) ∧
      decode 0b1001001101010000 = some (.sneVxVy 3 5) := by decide

theorem test_decode_format_XYN : decode 0b1101000100100011 = some (.drwVxVyNibble 1 2 3) := by decide

theorem test_decode_format_XF :
    decode 0b1110000110011110 = some (.skpVx 1) ∧ decode 0b1110000110100001 = some (.sknpVx 1) ∧
      decode 0b1111000100000111 = some (.ldVxDT 1) ∧ decode 0b1111001100001010 = some (.ldVxK 3) ∧
      decode 0b1111000000010101 = some (.ldDTVx 0) ∧ decode 0b1111001000011000 = some (.ldSTVx 2) ∧
      decode 0b1111001000011110 = some (.addIVx 2) ∧ decode 0b1111000000101001 = some (.ldFVx 0) ∧
      decode 0b1111010000110011 = some (.ldBVx 4) ∧ decode 0b1111001001010101 = some (.ldMemVx 2) ∧
      decode 0b1111111001100101 = some (.ldVxMem 14) := by decide

/-- V-D3 to V-D14. -/
theorem test_decode_illegal :
    decode 0x0000 = none ∧ decode 0x00E1 = none ∧ decode 0x0123 = none ∧ decode 0x5121 = none ∧
      decode 0x8128 = none ∧ decode 0x812F = none ∧ decode 0x9121 = none ∧ decode 0xE19F = none ∧
      decode 0xE1A0 = none ∧ decode 0xF100 = none ∧ decode 0xF175 = none ∧ decode 0xFFFF = none := by decide

theorem test_decode_bytes :
    decodeBytes [0xA2, 0xF0, 0x11] = .instr (.ldIAddr 0x2F0) [0x11] ∧
      decodeBytes [0x51, 0x21] = .illegal 5 1 2 1 ∧ decodeBytes [0xA2] = .truncated ∧
      decodeBytes [] = .truncated := by decide

theorem test_decode_table_word :
    decodeTableWord 16 0x8AB4 = some (.addVxVy 10 11) ∧ decodeTableWord 16 0x5121 = none := by decide

/-! ## One step -/

/-- What is read of the state after one step that runs the word `w`; none where the step stops. -/
def after {α : Type} (s : State) (w : Nat) (read : State → α) : Option α :=
  match step (s.withFetchWord 16 w) with
  | .next t => some (read t)
  | .fault _ => none
  | .refused _ => none

/-- Whether one step that runs the word `w` aborts, and why. -/
def abortOf (s : State) (w : Nat) : Option Fault :=
  match step (s.withFetchWord 16 w) with
  | .next _ => none
  | .fault f => some f
  | .refused _ => none

/-- Reset with the given registers. -/
def regs (rs : List (RegNum × Byte)) : State := rs.foldl (fun s r => s.setV r.1 r.2) State.reset

/-- A state with a byte of memory written. -/
def poke (s : State) (a : Nat) (b : Byte) : State := s.setMem (s.mem.put s.cfg a b)

/-- A state under the shift quirk. -/
def q1 (s : State) : State := { s with cfg := { s.cfg with copyVyWhileShifting := true } }

/-- A state under the save and load quirk. -/
def q2 (s : State) : State := { s with cfg := { s.cfg with incrementIndexDuringSaveLoad := true } }

/-- A state under the index quirk. -/
def q3 (s : State) : State := { s with cfg := { s.cfg with indexOverflowFlag := true } }

/-- V-X1. -/
theorem test_reset_runs_into_illegal_zero :
    (match step State.reset with
      | .next t => decide (t.response = .fault ⟨.invalidInstruction, 0x200, 0, 0, 0, 0⟩ ∧ t.pc = 0x202)
      | .fault _ => false
      | .refused _ => false) = true := by decide

/-- V-D6. -/
theorem test_illegal_word :
    after State.reset 0x5121 (fun t => (t.response, t.pc)) =
      some (.fault ⟨.invalidInstruction, 0x200, 5, 1, 2, 1⟩, 0x202) := by decide

/-- V-X4: the timer decrement is not undone by a fault. -/
theorem test_fault_keeps_decrement :
    (match step ((State.reset.setDt 2).setSchedule [.tick (mkRat 1 60) 0]) with
      | .next t => decide (t.dt = 1 ∧ t.response = .fault ⟨.invalidInstruction, 0x200, 0, 0, 0, 0⟩)
      | .fault _ => false
      | .refused _ => false) = true := by decide

/-- The record of rule R234 in 33 bits. -/
theorem test_fault_record_bits :
    FaultRecord.bits ⟨.popEmptyStack, 0x0200, 0x0, 0x0, 0xE, 0xE⟩ = 0x1020000EE#33 := by decide

/-- V-F1. -/
theorem test_jp : after State.reset 0x1ABC (fun t => (t.pc, t.sp)) = some (0xABC, 0) := by decide

/-- V-F3. -/
theorem test_call :
    after State.reset 0x2ABC (fun t => (t.pc, t.sp, t.stackEntry 0)) = some (0xABC, 1, some 0x202) := by decide

/-- V-F8. -/
theorem test_ret :
    after (State.reset.setStack [0x456, 0x202]) 0x00EE (fun t => (t.pc, t.sp, t.response)) =
      some (0x456, 1, .ok) := by decide

/-- E4, V-F9. -/
theorem test_ret_empty :
    after State.reset 0x00EE (fun t => (t.pc, t.sp, t.response)) =
      some (0x202, 0, .fault ⟨.popEmptyStack, 0x200, 0, 0, 0xE, 0xE⟩) := by decide

/-- V-F7. -/
theorem test_jp_v0 : after (regs [(0, 0xFF)]) 0xBFFF (·.pc) = some 0x10FE := by decide

/-- V-S1, V-S2. -/
theorem test_se_byte :
    after (regs [(3, 0x42)]) 0x3342 (·.pc) = some 0x204 ∧ after (regs [(3, 0x42)]) 0x3343 (·.pc) = some 0x202 := by
  decide

/-- V-S3, V-S4. -/
theorem test_sne_byte :
    after (regs [(3, 0x42)]) 0x4342 (·.pc) = some 0x202 ∧ after (regs [(3, 0x42)]) 0x4343 (·.pc) = some 0x204 := by
  decide

/-- V-S5, V-S6. -/
theorem test_se_vy :
    after (regs [(3, 0x42), (4, 0x42), (5, 0x43)]) 0x5340 (·.pc) = some 0x204 ∧
      after (regs [(3, 0x42), (4, 0x42), (5, 0x43)]) 0x5350 (·.pc) = some 0x202 := by decide

/-- V-S7, V-S8. -/
theorem test_sne_vy :
    after (regs [(3, 0x42), (4, 0x42), (5, 0x43)]) 0x9340 (·.pc) = some 0x202 ∧
      after (regs [(3, 0x42), (4, 0x42), (5, 0x43)]) 0x9350 (·.pc) = some 0x204 := by decide

/-- V-A1. -/
theorem test_ld_byte : after State.reset 0x6AFF (fun t => (t.v 10, t.v vF)) = some (0xFF, 0) := by decide

/-- V-A2. -/
theorem test_add_byte : after (regs [(3, 0xFE)]) 0x7305 (fun t => (t.v 3, t.v vF)) = some (0x03, 0) := by decide

/-- V-A4. -/
theorem test_ld_vy : after (regs [(1, 0xCC), (2, 0xAA)]) 0x8120 (fun t => (t.v 1, t.v 2)) = some (0xAA, 0xAA) := by
  decide

/-- V-A5. -/
theorem test_or : after (regs [(1, 0xCC), (2, 0xAA), (15, 7)]) 0x8121 (fun t => (t.v 1, t.v vF)) = some (0xEE, 7) := by
  decide

/-- V-A6. -/
theorem test_and : after (regs [(1, 0xCC), (2, 0xAA), (15, 7)]) 0x8122 (fun t => (t.v 1, t.v vF)) = some (0x88, 7) := by
  decide

/-- V-A7. -/
theorem test_xor : after (regs [(1, 0xCC), (2, 0xAA), (15, 7)]) 0x8123 (fun t => (t.v 1, t.v vF)) = some (0x66, 7) := by
  decide

/-- V-A9. -/
theorem test_add_no_carry :
    after (regs [(1, 0xFF), (2, 0x01), (15, 0xAA)]) 0x8124 (fun t => (t.v 1, t.v vF)) = some (0x00, 0xAA) := by decide

/-- V-A10. -/
theorem test_sub_no_borrow :
    after (regs [(1, 0x05), (2, 0x07), (15, 0xAA)]) 0x8125 (fun t => (t.v 1, t.v vF)) = some (0xFE, 0xAA) := by decide

/-- V-A11. -/
theorem test_subn :
    after (regs [(1, 0x05), (2, 0x07), (15, 0xAA)]) 0x8127 (fun t => (t.v 1, t.v vF)) = some (0x02, 0xAA) := by decide

/-- V-A15. -/
theorem test_shr_quirk :
    after (q1 (regs [(1, 0x05), (2, 0xF0)])) 0x8126 (fun t => (t.v 1, t.v vF)) = some (0x78, 0x01) := by decide

/-- V-A18, V-A19: Y is VF. -/
theorem test_shr_vf_source :
    after (regs [(1, 0x03), (15, 0x40)]) 0x81F6 (fun t => (t.v 1, t.v vF)) = some (0x01, 0x01) ∧
      after (q1 (regs [(1, 0x03), (15, 0x40)])) 0x81F6 (fun t => (t.v 1, t.v vF)) = some (0x00, 0x01) := by decide

/-- V-A20. -/
theorem test_shl : after (regs [(1, 0x81), (2, 0x41)]) 0x812E (fun t => (t.v 1, t.v vF)) = some (0x02, 0x80) := by
  decide

/-- V-A21, V-A23. -/
theorem test_shl_quirk :
    after (q1 (regs [(1, 0x81), (2, 0x41)])) 0x812E (fun t => (t.v 1, t.v vF)) = some (0x82, 0x80) ∧
      after (regs [(15, 0xC1)]) 0x8FFE (·.v vF) = some 0x00 := by decide

/-- A state whose next TICK runs CXNN with mask 0x0F and whose entropy source answers 0xA7. -/
def drawing : State := (State.reset.placeWord 0xC10F).setSchedule [.tick (mkRat 1 700) 0xA7]

/-- V-A25. -/
theorem test_rnd :
    (match step drawing with
      | .next t => decide (t.v 1 = 0x07 ∧ t.draws = 1)
      | .fault _ => false
      | .refused _ => false) = true := by decide

/-- V-A27. -/
theorem test_no_draw_without_rnd : after State.reset 0x6105 (fun t => (t.v 1, t.draws)) = some (0x05, 0) := by decide

/-- V-IM1. -/
theorem test_ld_i : after State.reset 0xAFFF (·.I) = some 0xFFF := by decide

/-- V-IM3, V-IM4. -/
theorem test_add_i_quirk :
    after (q3 ((regs [(1, 0x01)]).setI 0xFFF)) 0xF11E (fun t => (t.I, t.v vF)) = some (0x1000, 1) ∧
      after (q3 ((regs [(1, 0x01), (15, 7)]).setI 0xFFE)) 0xF11E (fun t => (t.I, t.v vF)) = some (0xFFF, 7) := by
  decide

/-- V-IM5, V-IM6. -/
theorem test_add_i_wraps :
    after (q3 ((regs [(1, 0x02)]).setI 0xFFFF)) 0xF11E (fun t => (t.I, t.v vF)) = some (0x0001, 0) ∧
      after (q3 ((regs [(15, 0xF0)]).setI 0xF10)) 0xFF1E (fun t => (t.I, t.v vF)) = some (0x1000, 1) := by decide

/-- V-IM7, V-IM7b. -/
theorem test_ld_f :
    after (regs [(1, 0x0A)]) 0xF129 (·.I) = some 0x82 ∧ after (regs [(1, 0xFA)]) 0xF129 (·.I) = some 0x82 := by decide

/-- E9. -/
theorem test_bcd :
    after ((regs [(4, 0xEA)]).setI 0x400) 0xF433 (fun t => (t.byteAt 0x400, t.byteAt 0x401, t.byteAt 0x402, t.I)) =
      some (2, 3, 4, 0x400) := by decide

/-- V-IM8, with its neighbour unchanged. -/
theorem test_store_regs :
    after ((regs [(0, 0x10), (1, 0x11), (2, 0x12), (3, 0x13)]).setI 0x400) 0xF355
      (fun t => (t.byteAt 0x400, t.byteAt 0x403, t.byteAt 0x404, t.I)) = some (0x10, 0x13, 0, 0x400) := by decide

/-- V-IM10, and V-IM19. -/
theorem test_store_regs_quirk_and_abort :
    after (q2 ((regs [(0, 0x10)]).setI 0x400)) 0xF055 (fun t => (t.byteAt 0x400, t.I)) = some (0x10, 0x401) ∧
      abortOf (State.reset.setI 0xFFE) 0xF255 = some .outOfBounds := by decide

/-- V-IM12. -/
theorem test_load_regs :
    after ((poke (poke (poke (regs [(3, 0x77)]) 0x400 0xDE) 0x401 0xAD) 0x402 0xBE).setI 0x400) 0xF265
      (fun t => (t.v 0, t.v 1, t.v 2, t.v 3)) = some (0xDE, 0xAD, 0xBE, 0x77) := by decide

/-- V-IM13. -/
theorem test_load_regs_quirk :
    after (q2 (State.reset.setI 0x400)) 0xF265 (·.I) = some 0x403 ∧
      abortOf (State.reset.setI 0xFFE) 0xF265 = some .outOfBounds := by decide

/-- V-G1. -/
theorem test_cls :
    after ((regs [(15, 1)]).setFb (togglePixel clearFramebuffer 3 4)) 0x00E0 (fun t => (pixel t.fb 3 4, t.v vF)) =
      some (false, 1) := by decide

/-- A sprite row 0xFF at 0x300, with V0 and V1 as given and VF = 0x55. -/
def sprite (v0 v1 : Byte) : State := (poke (regs [(0, v0), (1, v1), (15, 0x55)]) 0x300 0xFF).setI 0x300

/-- V-G2: clipping at the right edge. -/
theorem test_draw_clips :
    after (sprite 60 0) 0xD011 (fun t => (pixel t.fb 0 59, pixel t.fb 0 60, pixel t.fb 0 63, pixel t.fb 0 0, t.v vF)) =
      some (false, true, true, false, 0) := by decide

/-- V-G3, and a collision. -/
theorem test_draw_wraps_start_and_collides :
    after ((sprite 64 32).setFb (togglePixel clearFramebuffer 0 7)) 0xD011
      (fun t => (pixel t.fb 0 0, pixel t.fb 0 7, t.v vF)) = some (true, false, 1) := by decide

/-- V-K1, V-K5. -/
theorem test_skp :
    after ((regs [(2, 5)]).setKeys (State.reset.keys.set 5 true)) 0xE29E (·.pc) = some 0x204 ∧
      after ((regs [(2, 0x10)]).setKeys (State.reset.keys.set 0 true)) 0xE29E (·.pc) = some 0x202 := by decide

/-- V-K4, V-K6. -/
theorem test_sknp :
    after (regs [(2, 5)]) 0xE2A1 (·.pc) = some 0x204 ∧ after (regs [(2, 0x10)]) 0xE2A1 (·.pc) = some 0x202 := by decide

/-- V-K8: a held key is no event. -/
theorem test_key_wait_rewinds :
    after (State.reset.setKeys (State.reset.keys.set 7 true)) 0xF30A (fun t => (t.pc, t.v 3)) = some (0x200, 0) := by
  decide

/-- The latch of a press reaches FX0A (E8). -/
theorem test_key_wait_takes_latch :
    after (State.reset.setLatch (some 7)) 0xF30A (fun t => (t.pc, t.v 3, t.latch)) = some (0x202, 7, none) := by decide

/-- V-T10. -/
theorem test_ld_dt : after (State.reset.setDt 0x3C) 0xF207 (fun t => (t.v 2, t.dt)) = some (0x3C, 0x3C) := by decide

/-- FX15's example. -/
theorem test_set_dt : after (regs [(0, 7)]) 0xF015 (fun t => (t.dt, t.st)) = some (7, 0) := by decide

/-- FX18's example. -/
theorem test_set_st : after (regs [(2, 0x1E)]) 0xF218 (fun t => (t.st, t.dt)) = some (0x1E, 0) := by decide

/-- V-T3: a TICK of 0 consumes the latch and executes nothing. -/
theorem test_tick_of_zero :
    (match step ((State.reset.setLatch (some 4)).setSchedule [.tick 0 0]) with
      | .next t => decide (t.latch = none ∧ t.pc = 0x200 ∧ t.response = .ok)
      | .fault _ => false
      | .refused _ => false) = true := by decide

/-- E7 (b): no catch-up burst. -/
theorem test_tick_of_ten_periods :
    (match step ((State.reset.placeWord 0x6001).setSchedule [.tick (mkRat 10 700) 0]) with
      | .next t => decide (t.pc = 0x202 ∧ t.tcpuAcc = 0 ∧ t.t60Acc = mkRat 1 70)
      | .fault _ => false
      | .refused _ => false) = true := by decide

/-- The font is readable after reset: glyph 0 begins 0xF0 and glyph F ends 0x80 (rule R9). -/
theorem test_reset_font : State.reset.byteAt 0x50 = 0xF0 ∧ State.reset.byteAt 0x9F = 0x80 ∧ State.reset.byteAt 0xA0 = 0 := by
  decide

/-! ## A witness for the hypotheses of every statement that has some -/

/-- Reset with 1024 calls pending. -/
def full : State := State.reset.setStack (List.replicate 1024 0x202)

/-- A legal Configuration at every upper bound of rule R281, and IPS at its lower one. -/
def edge : Configuration :=
  { Configuration.default with ips := 1, fontStart := 0xFB0, programStart := 0xFFE }

/-- A state at bounds of the invariant: `pc` at its largest value, one return address at its largest. -/
def far : State := { State.resetWith edge with pc := 0x10FE, stack := [0x1000], schedule := [.press 7] }

theorem witness_DecodedWordIsTheInstructionsWord : decode 0x8AB6 = some (.shrVxVy 10 11) := by decide

theorem witness_MaskAndMatchSelectTheInstruction :
    (⟨0xF00F, 0x8004⟩ : Row) ∈ opcodeTable ∧ (0x8AB4 : Word) &&& 0xF00F = 0x8004 := by decide

theorem witness_ShiftClauses :
    (1 : RegNum) ≠ vF ∧ (2 : RegNum) ≠ vF ∧ State.reset.cfg.copyVyWhileShifting = false ∧
      (q1 State.reset).cfg.copyVyWhileShifting = true := by decide

theorem witness_RandomMasksExactlyOneDraw :
    (∃ t, exec .cls State.reset = .next t) ∧ ∀ x nn, Instr.cls ≠ .rndVxByte x nn :=
  ⟨⟨_, rfl⟩, fun _ _ h => nomatch h⟩

theorem witness_StepDrawsOnlyForRandom : ∃ t, step drawing = .next t ∧ t.draws ≠ drawing.draws :=
  ⟨_, rfl, by decide⟩

theorem witness_RegisterSkips : (0x1 : Nibble) ≠ 0 := by decide

theorem witness_CallPushesTheReturnAddress :
    State.reset.sp < 1024 ∧ (State.reset.setStack (List.replicate 1023 0x202)).sp < 1024 ∧ full.sp = 1024 := by
  have h1 : (State.reset.setStack (List.replicate 1023 0x202)).sp = 1023 := List.length_replicate
  exact ⟨by decide, by omega, List.length_replicate⟩

theorem witness_ReturnPopsOrRaisesPopEmptyStack :
    (State.reset.setStack [0x456, 0x202]).sp ≠ 0 ∧ State.reset.sp = 0 := by decide

theorem witness_CallThenReturnRestoresPcAndStack :
    ∃ t u, exec (.callAddr 0xABC) State.reset = .next t ∧ u.stack = t.stack ∧ u ≠ t :=
  ⟨_, { State.reset with stack := [0x200] }, rfl, rfl, by decide⟩

theorem witness_AddIndexWrapsAndFlagsOverflow :
    let above := q3 ((regs [(1, 0x01)]).setI 0xFFF)
    let under := q3 ((regs [(1, 0x01)]).setI 0xFFE)
    (∃ t, exec (.addIVx 1) above = .next t ∧ above.cfg.indexOverflowFlag = true ∧ 0x0FFF < t.I.toNat) ∧
      ∃ t, exec (.addIVx 1) under = .next t ∧ ¬0x0FFF < t.I.toNat :=
  ⟨⟨_, rfl, rfl, by decide⟩, ⟨_, rfl, by decide⟩⟩

theorem witness_GlyphAddressIsFiveBytesPerDigit : (State.resetWith edge).cfg.legal = true := by decide

theorem witness_BcdStoresTheThreeDigits :
    State.reset.mem.wf State.reset.cfg = true ∧ (State.reset.setI 0xFFD).I.toNat + 2 ≤ 0xFFF ∧
      0xFFF < (State.reset.setI 0xFFE).I.toNat + 2 := by decide

theorem witness_RegisterBlocksFitExactly :
    (State.reset.setI 0xFF0).I.toNat + (15 : RegNum).val ≤ 0xFFF ∧
      0xFFF < (State.reset.setI 0xFF1).I.toNat + (15 : RegNum).val ∧
      (q2 State.reset).cfg.incrementIndexDuringSaveLoad = true ∧
      State.reset.cfg.incrementIndexDuringSaveLoad = false := by decide

theorem witness_StoredBytesAreFetched :
    (State.reset.setI 0x200).I = (State.reset.setI 0x200).pc ∧
      ∃ t, exec (.ldBVx 4) (State.reset.setI 0x200) = .next t := ⟨rfl, _, rfl⟩

theorem witness_DrawFitsInMemory :
    SpriteInMemory (State.reset.setI 0xFFF) 0 1 ∧ ¬SpriteInMemory (State.reset.setI 0xFFF) 0 2 ∧
      SpriteInMemory (State.reset.setI 0xFFF) 31 2 := by
  unfold SpriteInMemory
  decide

theorem witness_DrawCollides :
    let s := (sprite 60 0).setFb (togglePixel clearFramebuffer 0 63)
    (∃ y' x', pixel s.fb y' x' = true ∧ SpriteSets s 60 0 1 y' x') ∧
      ¬∃ y' x', pixel (sprite 60 0).fb y' x' = true ∧ SpriteSets (sprite 60 0) 60 0 1 y' x' := by
  refine ⟨⟨0, 63, by decide, by unfold SpriteSets; decide⟩, fun ⟨y, x, h, _⟩ => ?_⟩
  simp [sprite, poke, regs, State.reset, State.resetWith, State.setI, State.setMem, State.setV, pixel] at h

theorem witness_DrawingTwiceRestoresTheFramebuffer :
    (0 : RegNum) ≠ vF ∧ (1 : RegNum) ≠ vF ∧ (∃ t, exec (.drwVxVyNibble 0 1 1) State.reset = .next t) ∧
      ∀ y' x', pixel State.reset.fb y' x' = false :=
  ⟨by decide, by decide, ⟨_, rfl⟩, fun y x => by simp [State.reset, State.resetWith, pixel]⟩

theorem witness_KeySkipsTestTheNamedKey :
    ((regs [(2, 0)]).v 2).toNat = (0 : Key).val ∧ ((regs [(2, 15)]).v 2).toNat = (15 : Key).val ∧
      16 ≤ ((regs [(2, 16)]).v 2).toNat := by decide

theorem witness_KeyWaitTakesTheCapturedKeyOrRewinds :
    (State.reset.setTickIn ⟨some 7, 0⟩).tickIn.key = some 7 ∧ State.reset.tickIn.key = none := by decide

theorem witness_NoInstructionReadsTheSoundTimer :
    (∃ t, exec .cls State.reset = .next t) ∧ exec (.ldBVx 0) (State.reset.setI 0xFFE) = .fault .outOfBounds :=
  ⟨⟨_, rfl⟩, rfl⟩

theorem witness_InstructionsWriteOnlyTheirState :
    (∃ t, exec (.shrVxVy 1 2) State.reset = .next t) ∧ ¬WritesRegister (.shrVxVy 1 2) 3 :=
  ⟨⟨_, rfl⟩, by simp [WritesRegister]; decide⟩

theorem witness_InstructionsAbort :
    Aborts (.ldBVx 0) (State.reset.setI 0xFFE) .outOfBounds ∧ ∀ f, ¬Aborts .cls State.reset f :=
  ⟨⟨rfl, by decide⟩, fun _ h => h⟩

theorem witness_FetchIsBigEndian : 0xFFE + 1 ≤ 0xFFF := by decide

theorem witness_TimerFiresOnceAndDropsTheExcess :
    (1 / 60 : Duration) ≤ 0 + 1 / 60 ∧ (0 : Duration) + 1 / 61 < 1 / 60 ∧ (0 : Duration) < 1 / 60 ∧
      (0 : Duration) ≤ 0 ∧ (0 : Duration) ≤ 5 := by norm_num

theorem witness_CountersCountDownToZeroOncePerFire :
    (1 / 60 : Duration) ≤ State.reset.t60Acc + 1 / 60 ∧ State.reset.t60Acc + (0 : Duration) < 1 / 60 := by
  simp [State.reset, State.resetWith]

/-- A quiet state: `1200` at 0x200, and the host's schedule as given. -/
def looping (ts : List Transaction) : State := (State.reset.placeWord 0x1200).setSchedule ts

/-- A TICK of one second. -/
def tick1 : Transaction := .tick 1 0

theorem cpuFires_after_reset (s : State) (hi : s.cfg.ips = 700) (ha : s.tcpuAcc = 0) (d : Duration) :
    CpuFires s d ↔ 1 / 700 ≤ d := by
  simp [CpuFires, hi, ha]

theorem fires_in_one_second (s : State) (hi : s.cfg.ips = 700) (ha : s.tcpuAcc = 0) : CpuFires s 1 :=
  (cpuFires_after_reset s hi ha 1).2 (by norm_num)

theorem not_fires_at_once (s : State) (hi : s.cfg.ips = 700) (ha : s.tcpuAcc = 0) : ¬CpuFires s 0 :=
  fun h => absurd ((cpuFires_after_reset s hi ha 0).1 h) (by norm_num)

theorem witness_EveryTickConsumesTheLatch :
    NextIsTick (looping [tick1]) (looping []) 1 0 ∧ ∃ t, step (looping [tick1]) = .next t :=
  ⟨⟨rfl, by norm_num⟩, _, rfl⟩

theorem witness_TickWithoutAFireExecutesNothing :
    NextIsTick (looping [.tick 0 0]) (looping []) 0 0 ∧ ¬CpuFires (looping [.tick 0 0]) 0 :=
  ⟨⟨rfl, le_refl _⟩, not_fires_at_once _ rfl rfl⟩

theorem witness_StepRunsTheDecodedInstruction :
    NextIsTick (looping [tick1]) (looping []) 1 0 ∧ CpuFires (looping [tick1]) 1 ∧
      EncodedAtPc (looping [tick1]) (.jpAddr 0x200) :=
  ⟨⟨rfl, by norm_num⟩, fires_in_one_second _ rfl rfl, by decide, by decide⟩

theorem witness_FetchAboveMemoryAborts :
    let s := (State.reset.setPc 0xFFF).setSchedule [tick1]
    NextIsTick s (State.reset.setPc 0xFFF) 1 0 ∧ CpuFires s 1 ∧ 0xFFF < s.pc.toNat + 1 :=
  ⟨⟨rfl, by norm_num⟩, fires_in_one_second _ rfl rfl, by decide⟩

theorem witness_IllegalWordRaisesInvalidInstruction :
    State.reset.fetch = some 0x0000 ∧ ∀ r ∈ opcodeTable, (0x0000 : Word) &&& r.mask ≠ r.value := by decide

/-- FX0A with X = 3 at 0x200, and the host's schedule as given. -/
def waiting (ts : List Transaction) : State := (State.reset.placeWord 0xF30A).setSchedule ts

theorem witness_PressReachesTheKeyWaitOfTheNextTick :
    (0 : Duration) ≤ 1 ∧ CpuFires (waiting [.press 7, tick1]) 1 ∧
      EncodedAtPc (waiting [.press 7, tick1]) (.ldVxK 3) ∧ CpuFires (waiting [tick1]) 1 ∧
      EncodedAtPc (waiting [tick1]) (.ldVxK 3) ∧ (waiting [tick1]).latch = none :=
  ⟨by norm_num, fires_in_one_second _ rfl rfl, ⟨by decide, by decide⟩, fires_in_one_second _ rfl rfl,
    ⟨by decide, by decide⟩, rfl⟩

theorem witness_StalePressIsLostToTheKeyWait :
    let s := waiting [.press 7, .tick 0 0, tick1]
    (0 : Duration) ≤ 0 ∧ (0 : Duration) ≤ 1 ∧ ¬CpuFires s 0 ∧
      1 / (s.cfg.ips : Rat) ≤ s.tcpuAcc + 0 + 1 ∧ EncodedAtPc s (.ldVxK 3) := by
  intro s
  have hf := fires_in_one_second s rfl rfl
  exact ⟨le_refl _, by norm_num, not_fires_at_once s rfl rfl, by rw [add_zero]; exact hf, by decide, by decide⟩

theorem witness_PressAndReleaseChangeTheKeyState :
    (State.reset.setSchedule [.press 0]).takeTransaction = (.press 0, State.reset) ∧
      (State.reset.setSchedule [.release 15]).takeTransaction = (.release 15, State.reset) := ⟨rfl, rfl⟩

theorem witness_LoadCopiesTheProgram :
    let s := (State.resetWith edge).setSchedule [.load [1, 2]]
    let l := (State.resetWith edge).setSchedule [.load [1, 2, 3]]
    s.mem.wf s.cfg = true ∧ s.takeTransaction.1 = .load [1, 2] ∧ [1, 2].length ≤ 4096 - s.cfg.programStart.toNat ∧
      s.cfg.programStart.toNat ≤ 4096 ∧ l.mem.wf l.cfg = true ∧ l.takeTransaction.1 = .load [1, 2, 3] ∧
      4096 < l.cfg.programStart.toNat + [1, 2, 3].length := by decide

theorem witness_ResetGivesEveryElementItsValue :
    (State.reset.setSchedule [.reset edge]).takeTransaction = (.reset edge, State.reset) ∧ edge.legal = true ∧
      ({ edge with fontStart := 0xFB1 } : Configuration).legal = false := ⟨rfl, by decide, by decide⟩

theorem witness_ObserversReturnAndChangeNothing :
    (State.reset.setSchedule [.sound]).takeTransaction = (.sound, State.reset) ∧
      (State.reset.setSchedule [.fb]).takeTransaction = (.fb, State.reset) := ⟨rfl, rfl⟩

theorem witness_OnlyTheHostChangesConfigurationAndKeys :
    (∃ t, step (State.reset.setSchedule [.reset edge]) = .next t ∧ t.cfg ≠ State.reset.cfg) ∧
      ∃ t, step (State.reset.setSchedule [.press 3]) = .next t ∧ t.keys ≠ State.reset.keys :=
  ⟨⟨_, rfl, by decide⟩, ⟨_, rfl, by decide⟩⟩

/-- Each duty, broken at the first value past its bound and kept at the bound. -/
theorem witness_StepRefusesExactlyBrokenHostDuties :
    BreaksDuty edge (.tick (mkRat (-1) 2) 0) ∧ ¬BreaksDuty edge (.tick 0 0) ∧
      BreaksDuty edge (.load [1, 2, 3]) ∧ ¬BreaksDuty edge (.load [1, 2]) ∧ ¬BreaksDuty edge (.reset edge) ∧
      BreaksDuty edge (.reset { edge with ips := 0 }) ∧ BreaksDuty edge (.reset { edge with fontStart := 0xFB1 }) ∧
      BreaksDuty edge (.reset { edge with programStart := 0xFFF }) := by
  refine ⟨by norm_num [BreaksDuty, Rat.mkRat_eq_div], by norm_num [BreaksDuty], ?_⟩
  simp only [BreaksDuty, LegalConfiguration]
  decide

theorem witness_InvariantHoldsAfterReset : edge.legal = true := by decide

/-- A state within the invariant, far from reset, whose step answers a next state. -/
theorem witness_StepKeepsTheInvariant : far.Inv ∧ ∃ t, step far = .next t :=
  ⟨⟨rfl, by decide, by decide, by decide, by simp [far], by norm_num [far, State.resetWith],
    by norm_num [far, State.resetWith, edge], rfl, by decide⟩, _, rfl⟩

theorem witness_QuiescentStates :
    (looping [tick1]).QuiescentAt 0x200 ∧ NextIsTick (looping [tick1]) (looping []) 1 0 ∧
      (looping []).QuiescentAt 0x200 ∧ (looping []).schedule = [] ∧ deltaLegal (looping []).idleDelta = true :=
  ⟨⟨rfl, by decide⟩, ⟨rfl, by norm_num⟩, ⟨rfl, by decide⟩, rfl, by decide⟩

end Sys2Proof.Tests
end

section
/-! The word read of rule R62: the nibbles of a word are those of its two bytes, and a read inside memory
answers the word of the two bytes. -/

namespace Sys2Proof

/-! ## The nibbles of a word of two bytes -/

variable (b0 b1 : Byte)

@[simp] theorem n0_wordOfBytes_toNat : (n0 (wordOfBytes b0 b1)).toNat = b0.toNat / 16 := by
  have := b1.isLt
  rw [n0_toNat, wordOfBytes_toNat]
  omega

@[simp] theorem n1_wordOfBytes_toNat : (n1 (wordOfBytes b0 b1)).toNat = b0.toNat % 16 := by
  have := b1.isLt
  rw [n1_toNat, wordOfBytes_toNat]
  omega

@[simp] theorem n2_wordOfBytes_toNat : (n2 (wordOfBytes b0 b1)).toNat = b1.toNat / 16 := by
  have := b1.isLt
  rw [n2_toNat, wordOfBytes_toNat]
  omega

@[simp] theorem n3_wordOfBytes_toNat : (n3 (wordOfBytes b0 b1)).toNat = b1.toNat % 16 := by
  rw [n3_toNat, wordOfBytes_toNat]
  omega

end Sys2Proof

namespace Sys2Proof.Machine

/-- Where both addresses are inside memory, a word read answers the byte at the lower address in the high
half. -/
theorem State.memReadWord_of_inside (s : State) {a : Nat} (h : a + 1 ≤ 0xFFF) :
    s.memReadWord a = some (wordOfBytes (s.byteAt a) (s.byteAt (a + 1))) :=
  (State.memReadWord_eq_some s).2 ⟨Nat.lt_succ_of_le h, rfl⟩

/-- Settles O35: the word read is the word of the two bytes, whose value and nibbles are known as numbers,
and `fetch` is that read at `pc` by definition. -/
theorem fetchIsBigEndian : Obligations.FetchIsBigEndian := by
  refine ⟨fun s a h => ⟨_, s.memReadWord_of_inside h, wordOfBytes_toNat _ _, ?_⟩, fun _ => rfl⟩
  exact ⟨n0_wordOfBytes_toNat _ _, n1_wordOfBytes_toNat _ _, n2_wordOfBytes_toNat _ _, n3_wordOfBytes_toNat _ _⟩

end Sys2Proof.Machine
end

section
/-! The illegal words of rule R127: decoding answers an instruction only for that instruction's own word, so
a word outside the opcode table decodes to nothing and raises `InvalidInstruction`. -/

namespace Sys2Proof

/-! ## Words put together again from their fields -/

section
variable {w : Word} {op : Nibble}

theorem formatA_of_n0 (h : (n0 w).toNat = op.toNat) : formatA op (fieldNNN w) = w := by
  apply BitVec.eq_of_toNat_eq
  rw [formatA_toNat, ← h, n0_toNat, fieldNNN_toNat]
  omega

theorem formatXB_of_n0 (h : (n0 w).toNat = op.toNat) : formatXB op (fieldX w) (fieldNN w) = w := by
  apply BitVec.eq_of_toNat_eq
  rw [formatXB_toNat, ← h, n0_toNat, fieldX_val, fieldNN_toNat]
  omega

theorem formatXYN_of_n0 (h : (n0 w).toNat = op.toNat) :
    formatXYN op (fieldX w) (fieldY w) (n3 w) = w := by
  apply BitVec.eq_of_toNat_eq
  rw [formatXYN_toNat, ← h, n0_toNat, fieldX_val, fieldY_val, n3_toNat]
  omega

theorem formatXB_of_function {f : Byte} (h : (n0 w).toNat = op.toNat)
    (hf : (fieldNN w).toNat = f.toNat) : formatXB op (fieldX w) f = w := by
  rw [← BitVec.eq_of_toNat_eq hf, formatXB_of_n0 h]

theorem formatXYN_of_function {f : Nibble} (h : (n0 w).toNat = op.toNat)
    (hf : (n3 w).toNat = f.toNat) : formatXYN op (fieldX w) (fieldY w) f = w := by
  rw [← BitVec.eq_of_toNat_eq hf, formatXYN_of_n0 h]

end

/-! ## The word of a decoded instruction, family by family -/

section
variable {w : Word} {i : Instr}

theorem encode_of_decode0 (h : decode0 w = some i) : encode i = w := by
  unfold decode0 at h
  split at h
  · next hw => cases h; exact hw.symm
  split at h
  · next hw => cases h; exact hw.symm
  · cases h

theorem encode_of_decode8 (hn : (n0 w).toNat = 0x8) (h : decode8 w = some i) : encode i = w := by
  unfold decode8 at h
  dsimp only at h
  split at h <;> cases h <;> exact formatXYN_of_function hn ‹_›

theorem encode_of_decodeE (hn : (n0 w).toNat = 0xE) (h : decodeE w = some i) : encode i = w := by
  unfold decodeE at h
  dsimp only at h
  split at h <;> cases h <;> exact formatXB_of_function hn ‹_›

theorem encode_of_decodeF (hn : (n0 w).toNat = 0xF) (h : decodeF w = some i) : encode i = w := by
  unfold decodeF at h
  dsimp only at h
  split at h <;> cases h <;> exact formatXB_of_function hn ‹_›

/-- The families 0x5 and 0x9, whose one function nibble is 0 (rule R94). -/
theorem encode_of_function_zero {op : Nibble} {j : Instr} (hn : (n0 w).toNat = op.toNat)
    (hj : encode j = formatXYN op (fieldX w) (fieldY w) 0)
    (h : (if n3 w = 0 then some j else none) = some i) : encode i = w := by
  split at h
  · next hf => cases h; rw [hj, ← hf, formatXYN_of_n0 hn]
  · cases h

/-- A word decodes to no instruction but the one whose word it is. -/
theorem encode_of_decode (h : decode w = some i) : encode i = w := by
  unfold decode at h
  split at h
  case h_1 => exact encode_of_decode0 h
  case h_6 hn => exact encode_of_function_zero (op := 0x5) hn rfl h
  case h_9 hn => exact encode_of_decode8 hn h
  case h_10 hn => exact encode_of_function_zero (op := 0x9) hn rfl h
  case h_14 hn => cases h; exact formatXYN_of_n0 hn
  case h_15 hn => exact encode_of_decodeE hn h
  case h_16 hn => exact encode_of_decodeF hn h
  case h_17 => cases h
  case h_2 hn | h_3 hn | h_11 hn | h_12 hn => cases h; exact formatA_of_n0 hn
  case h_4 hn | h_5 hn | h_7 hn | h_8 hn | h_13 hn => cases h; exact formatXB_of_n0 hn

end

/-! ## Illegal words -/

/-- The word of every instruction fits its row, and the row is in the table. -/
theorem encode_fits_row (i : Instr) : encode i &&& i.row.mask = i.row.value ∧ i.row ∈ opcodeTable :=
  match i with
  | .cls => Laws.TableRow.cls
  | .ret => Laws.TableRow.ret
  | .jpAddr _ => Laws.TableRow.jpAddr _
  | .callAddr _ => Laws.TableRow.callAddr _
  | .seVxByte _ _ => Laws.TableRow.seVxByte _ _
  | .sneVxByte _ _ => Laws.TableRow.sneVxByte _ _
  | .seVxVy _ _ => Laws.TableRow.seVxVy _ _
  | .ldVxByte _ _ => Laws.TableRow.ldVxByte _ _
  | .addVxByte _ _ => Laws.TableRow.addVxByte _ _
  | .ldVxVy _ _ => Laws.TableRow.ldVxVy _ _
  | .orVxVy _ _ => Laws.TableRow.orVxVy _ _
  | .andVxVy _ _ => Laws.TableRow.andVxVy _ _
  | .xorVxVy _ _ => Laws.TableRow.xorVxVy _ _
  | .addVxVy _ _ => Laws.TableRow.addVxVy _ _
  | .subVxVy _ _ => Laws.TableRow.subVxVy _ _
  | .shrVxVy _ _ => Laws.TableRow.shrVxVy _ _
  | .subnVxVy _ _ => Laws.TableRow.subnVxVy _ _
  | .shlVxVy _ _ => Laws.TableRow.shlVxVy _ _
  | .sneVxVy _ _ => Laws.TableRow.sneVxVy _ _
  | .ldIAddr _ => Laws.TableRow.ldIAddr _
  | .jpV0Addr _ => Laws.TableRow.jpV0Addr _
  | .rndVxByte _ _ => Laws.TableRow.rndVxByte _ _
  | .drwVxVyNibble _ _ _ => Laws.TableRow.drwVxVyNibble _ _ _
  | .skpVx _ => Laws.TableRow.skpVx _
  | .sknpVx _ => Laws.TableRow.sknpVx _
  | .ldVxDT _ => Laws.TableRow.ldVxDT _
  | .ldVxK _ => Laws.TableRow.ldVxK _
  | .ldDTVx _ => Laws.TableRow.ldDTVx _
  | .ldSTVx _ => Laws.TableRow.ldSTVx _
  | .addIVx _ => Laws.TableRow.addIVx _
  | .ldFVx _ => Laws.TableRow.ldFVx _
  | .ldBVx _ => Laws.TableRow.ldBVx _
  | .ldMemVx _ => Laws.TableRow.ldMemVx _
  | .ldVxMem _ => Laws.TableRow.ldVxMem _

/-- A word that decodes fits its instruction's row, so one that fits no row does not decode. -/
theorem decode_eq_none_of_no_row {w : Word} (h : ∀ r ∈ opcodeTable, w &&& r.mask ≠ r.value) :
    decode w = none := by
  by_contra hd
  obtain ⟨i, hi⟩ := Option.ne_none_iff_exists'.1 hd
  obtain ⟨hfit, hmem⟩ := encode_fits_row i
  rw [encode_of_decode hi] at hfit
  exact h i.row hmem hfit

end Sys2Proof

namespace Sys2Proof.Claims

open Sys2Proof.Machine

/-! ## Frames of single updates, and of one change after another -/

theorem Part.Same.trans {s t u : State} {p : Part} (hst : Part.Same s t p) (htu : Part.Same t u p) :
    Part.Same s u p := by
  cases p with
  | mem | V => exact fun a => (htu a).trans (hst a)
  | fb => exact fun y x => (htu y x).trans (hst y x)
  | _ => exact Eq.trans htu hst

theorem KeepsBut.trans {ps qs : List Part} {s t u : State} (hst : KeepsBut ps s t)
    (htu : KeepsBut qs t u) : KeepsBut (ps ++ qs) s u := by
  intro p hp
  rw [List.mem_append, not_or] at hp
  exact (hst p hp.1).trans (htu p hp.2)

theorem keepsBut_setPc (s : State) (a : Word) : KeepsBut [.pc] s (s.setPc a) := by
  intro p hp
  cases p with
  | pc => exact absurd (List.mem_singleton_self _) hp
  | mem | V => exact fun _ => rfl
  | fb => exact fun _ _ => rfl
  | _ => rfl

theorem keepsBut_setResponse (s : State) (r : Response) : KeepsBut [.response] s (s.setResponse r) := by
  intro p hp
  cases p with
  | response => exact absurd (List.mem_singleton_self _) hp
  | mem | V => exact fun _ => rfl
  | fb => exact fun _ _ => rfl
  | _ => rfl

end Sys2Proof.Claims

namespace Sys2Proof.Machine

open Sys2Proof.Claims

theorem instructionCycle_of_fetch {s : State} {w : Word} (h : s.fetch = some w) :
    instructionCycle s = dispatch w (s.setPc (s.pc + 2)) := by
  simp only [instructionCycle, h]

/-- After the advance of rule R125, `opc` is the address the word was fetched from. -/
@[simp] theorem State.opc_setPc_add_two (s : State) (a : Word) : (s.setPc (a + 2)).opc = a :=
  BitVec.add_sub_cancel a 2

/-- Settles O42: the word decodes to nothing, so the cycle raises the fault in the state with `pc` advanced,
whose `opc` is the word's own address; the advance and the record are all that changes. -/
theorem illegalWordRaisesInvalidInstruction : Obligations.IllegalWordRaisesInvalidInstruction := by
  intro s w hfetch hrow
  have hcycle : instructionCycle s =
      raiseFault .invalidInstruction (n0 w) (n1 w) (n2 w) (n3 w) (s.setPc (s.pc + 2)) := by
    rw [instructionCycle_of_fetch hfetch, dispatch_of_illegal (decode_eq_none_of_no_row hrow)]
  refine ⟨_, hcycle, ?_, rfl, (keepsBut_setPc s _).trans (keepsBut_setResponse _ _)⟩
  rw [State.setResponse_response, State.opc_setPc_add_two]

end Sys2Proof.Machine
end

section
/-! The jumps of rules R141 and R143: the written target is the number the rule names, as zero extension keeps
a number and the sum of a 12-bit address and a byte does not wrap in 16 bits. -/

namespace Sys2Proof.Machine

open Sys2Proof.Claims

/-! ## The numbers of zero-extended operands -/

@[simp] theorem zextAddr_toNat (nnn : BitVec 12) : (zextAddr nnn).toNat = nnn.toNat :=
  BitVec.toNat_setWidth_of_le (by decide)

@[simp] theorem zextByte_toNat (b : Byte) : (zextByte b).toNat = b.toNat :=
  BitVec.toNat_setWidth_of_le (by decide)

/-- The largest sum is 0xFFF + 0xFF = 0x10FE (rule R25). -/
theorem zextAddr_add_zextByte_toNat (nnn : BitVec 12) (b : Byte) :
    (zextAddr nnn + zextByte b).toNat = nnn.toNat + b.toNat := by
  have hnnn := nnn.isLt
  have hb := b.isLt
  rw [BitVec.toNat_add_of_lt (by rw [zextAddr_toNat, zextByte_toNat]; omega), zextAddr_toNat, zextByte_toNat]

/-! ## The two jumps -/

theorem exec_jpAddr (nnn : BitVec 12) (s : State) : exec (.jpAddr nnn) s = .next (s.setPc (zextAddr nnn)) := rfl

theorem exec_jpV0Addr (nnn : BitVec 12) (s : State) :
    exec (.jpV0Addr nnn) s = .next (s.setPc (zextAddr nnn + zextByte (s.v 0))) := rfl

/-- Settles O15: both jumps do nothing but set `pc`, to a word whose number is NNN, or NNN plus `V0`. -/
theorem jumpsWriteTheTarget : Obligations.JumpsWriteTheTarget := fun s nnn =>
  ⟨⟨_, exec_jpAddr nnn s, zextAddr_toNat nnn, keepsBut_setPc s _⟩,
    ⟨_, exec_jpV0Addr nnn s, zextAddr_add_zextByte_toNat nnn (s.v 0), keepsBut_setPc s _⟩⟩

end Sys2Proof.Machine
end

section
/-! The register skips of rules R150 to R153: a skip only sets `pc`, and the word of a skip on two registers is
legal exactly where its function nibble is 0. -/

namespace Sys2Proof

/-! ## The words of families 0x3, 0x4, 0x5 and 0x9 -/

theorem decode_formatXB_three (x : RegNum) (nn : Byte) :
    decode (formatXB 0x3 x nn) = some (.seVxByte x nn) := by
  simp [decode]

theorem decode_formatXB_four (x : RegNum) (nn : Byte) :
    decode (formatXB 0x4 x nn) = some (.sneVxByte x nn) := by
  simp [decode]

theorem decode_formatXYN_five (x y : RegNum) (n : Nibble) :
    decode (formatXYN 0x5 x y n) = if n = 0 then some (.seVxVy x y) else none := by
  simp [decode]

theorem decode_formatXYN_nine (x y : RegNum) (n : Nibble) :
    decode (formatXYN 0x9 x y n) = if n = 0 then some (.sneVxVy x y) else none := by
  simp [decode]

end Sys2Proof

namespace Sys2Proof.Claims

open Sys2Proof.Machine

/-! ## The numbers of decoded and of illegal words -/

section
variable {op : Nibble} {x y : RegNum} {i : Instr} {k : Nat}

theorem decodesTo_of_formatXB {nn : Byte} (hk : op.toNat * 4096 = k)
    (h : decode (formatXB op x nn) = some i) : DecodesTo (k + x.val * 256 + nn.toNat) i := by
  rwa [DecodesTo, ← hk, ← formatXB_eq_ofNat]

/-- Where the function nibble is 0, the number is written without it. -/
theorem decodesTo_of_formatXYN_zero (hk : op.toNat * 4096 = k)
    (h : decode (formatXYN op x y 0x0) = some i) : DecodesTo (k + x.val * 256 + y.val * 16) i := by
  rwa [formatXYN_eq_ofNat, hk, show (0x0 : Nibble).toNat = 0 from rfl, Nat.add_zero] at h

theorem isIllegal_of_formatXYN {n : Nibble} (hk : op.toNat * 4096 = k)
    (h : decode (formatXYN op x y n) = none) : IsIllegal (k + x.val * 256 + y.val * 16 + n.toNat) := by
  rwa [IsIllegal, ← hk, ← formatXYN_eq_ofNat]

end

/-! ## A skip as a jump -/

theorem skipWhen_eq_setPc (c : Bool) (s : State) :
    skipWhen c s = .next (s.setPc (if c then s.pc + 2 else s.pc)) := by
  cases c <;> rfl

theorem jumpsTo_of_exec_eq_skipWhen {i : Instr} {s : State} {c : Bool} (h : exec i s = skipWhen c s) :
    JumpsTo i s (if c then s.pc + 2 else s.pc) :=
  ⟨_, h.trans (skipWhen_eq_setPc c s), rfl, keepsBut_setPc s _⟩

theorem jumpsTo_of_exec_eq_skipWhen_beq {i : Instr} {s : State} {a b : Byte}
    (h : exec i s = skipWhen (a == b) s) : JumpsTo i s (if a = b then s.pc + 2 else s.pc) := by
  simpa only [beq_iff_eq] using jumpsTo_of_exec_eq_skipWhen h

theorem jumpsTo_of_exec_eq_skipWhen_bne {i : Instr} {s : State} {a b : Byte}
    (h : exec i s = skipWhen (a != b) s) : JumpsTo i s (if a = b then s.pc else s.pc + 2) := by
  simpa only [bne_iff_ne, ne_eq, ite_not] using jumpsTo_of_exec_eq_skipWhen h

end Sys2Proof.Claims

namespace Sys2Proof.Machine

open Sys2Proof.Claims

/-- Settles O14: each of the four is a skip on an equality or on its negation, so it jumps; the words are those
of the formats, and in families 0x5 and 0x9 a function nibble other than 0 decodes to nothing. -/
theorem registerSkipsAddTwoWhenTheConditionHolds : Obligations.RegisterSkipsAddTwoWhenTheConditionHolds := by
  intro s x y nn
  refine ⟨jumpsTo_of_exec_eq_skipWhen_beq rfl, jumpsTo_of_exec_eq_skipWhen_bne rfl,
    jumpsTo_of_exec_eq_skipWhen_beq rfl, jumpsTo_of_exec_eq_skipWhen_bne rfl,
    decodesTo_of_formatXB rfl (decode_formatXB_three x nn),
    decodesTo_of_formatXB rfl (decode_formatXB_four x nn),
    decodesTo_of_formatXYN_zero rfl (decode_formatXYN_five x y 0),
    decodesTo_of_formatXYN_zero rfl (decode_formatXYN_nine x y 0), fun n hn => ⟨?_, ?_⟩⟩
  · exact isIllegal_of_formatXYN rfl ((decode_formatXYN_five x y n).trans (if_neg hn))
  · exact isIllegal_of_formatXYN rfl ((decode_formatXYN_nine x y n).trans (if_neg hn))

end Sys2Proof.Machine
end

section
/-! The loads and the flagless arithmetic of rules R160 to R162, R166 and R167: each only sets `V[x]`, to a byte
whose number is the operand, or the sum or difference modulo 256. -/

namespace Sys2Proof

/-! ## The words of families 0x6, 0x7 and 0x8 -/

theorem decode_formatXB_six (x : RegNum) (nn : Byte) :
    decode (formatXB 0x6 x nn) = some (.ldVxByte x nn) := by
  simp [decode]

theorem decode_formatXB_seven (x : RegNum) (nn : Byte) :
    decode (formatXB 0x7 x nn) = some (.addVxByte x nn) := by
  simp [decode]

theorem decode_formatXYN_eight_zero (x y : RegNum) :
    decode (formatXYN 0x8 x y 0x0) = some (.ldVxVy x y) := by
  simp [decode, decode8]

theorem decode_formatXYN_eight_four (x y : RegNum) :
    decode (formatXYN 0x8 x y 0x4) = some (.addVxVy x y) := by
  simp [decode, decode8]

theorem decode_formatXYN_eight_five (x y : RegNum) :
    decode (formatXYN 0x8 x y 0x5) = some (.subVxVy x y) := by
  simp [decode, decode8]

end Sys2Proof

namespace Sys2Proof.Claims

open Sys2Proof.Machine

/-- The number of a word of format XYN, its two fixed nibbles written together as `k`. -/
theorem decodesTo_of_formatXYN {op n : Nibble} {x y : RegNum} {i : Instr} {k : Nat}
    (hk : op.toNat * 4096 + n.toNat = k) (h : decode (formatXYN op x y n) = some i) :
    DecodesTo (k + x.val * 256 + y.val * 16) i := by
  have hword : k + x.val * 256 + y.val * 16 = op.toNat * 4096 + x.val * 256 + y.val * 16 + n.toNat := by
    omega
  rwa [DecodesTo, hword, ← formatXYN_eq_ofNat]

/-! ## The write of one register -/

theorem keepsBut_setV (s : State) (x : RegNum) (b : Byte) : KeepsBut [.V] s (s.setV x b) := by
  intro p hp
  cases p with
  | V => exact absurd (List.mem_singleton_self _) hp
  | mem => exact fun _ => rfl
  | fb => exact fun _ _ => rfl
  | _ => rfl

theorem regsBut_setV (s : State) (x : RegNum) (b : Byte) : RegsBut [x] s (s.setV x b) :=
  fun r hr => State.v_setV_of_ne s x r b (List.ne_of_not_mem_cons hr)

theorem writesOnly_of_exec_eq_setV {i : Instr} {s : State} {x : RegNum} {b : Byte} {value : State → Prop}
    (h : exec i s = .next (s.setV x b)) (hvalue : value (s.setV x b)) : WritesOnly i s x value :=
  ⟨_, h, hvalue, regsBut_setV s x b, keepsBut_setV s x b⟩

end Sys2Proof.Claims

namespace Sys2Proof.Machine

open Sys2Proof.Claims

/-! ## Bytes as numbers modulo 256 -/

theorem toNat_sub_byte (a b : Byte) : (a - b).toNat = (a.toNat + 256 - b.toNat) % 256 := by
  have hb := b.isLt
  rw [BitVec.toNat_sub]
  omega

section
variable (s : State) (x : RegNum) (a b : Byte)

theorem State.v_setV_add_toNat : ((s.setV x (a + b)).v x).toNat = (a.toNat + b.toNat) % 256 := by
  rw [State.v_setV_self, BitVec.toNat_add]

theorem State.v_setV_sub_toNat : ((s.setV x (a - b)).v x).toNat = (a.toNat + 256 - b.toNat) % 256 := by
  rw [State.v_setV_self, toNat_sub_byte]

end

/-! ## The instructions as one register write -/

section
variable (x y : RegNum) (nn : Byte) (s : State)

theorem exec_ldVxByte : exec (.ldVxByte x nn) s = .next (s.setV x nn) := rfl

theorem exec_ldVxVy : exec (.ldVxVy x y) s = .next (s.setV x (s.v y)) := rfl

theorem exec_addVxByte : exec (.addVxByte x nn) s = .next (s.setV x (s.v x + nn)) := rfl

theorem exec_addVxVy : exec (.addVxVy x y) s = .next (s.setV x (s.v x + s.v y)) := rfl

theorem exec_subVxVy : exec (.subVxVy x y) s = .next (s.setV x (s.v x - s.v y)) := rfl

end

/-- Settles O7: both instructions are one register write, of NN and of `V[y]`. -/
theorem loadImmediateAndCopyWriteVx : Obligations.LoadImmediateAndCopyWriteVx := fun s x y nn =>
  ⟨writesOnly_of_exec_eq_setV (exec_ldVxByte x nn s) (s.v_setV_self x nn),
    writesOnly_of_exec_eq_setV (exec_ldVxVy x y s) (s.v_setV_self x (s.v y)),
    decodesTo_of_formatXB rfl (decode_formatXB_six x nn),
    decodesTo_of_formatXYN_zero rfl (decode_formatXYN_eight_zero x y)⟩

/-- Settles O8: the three are one register write of a sum or a difference of bytes, which wraps modulo 256;
no flag is written, so VF changes only as `V[x]`. -/
theorem addAndSubtractWrapAndLeaveVf : Obligations.AddAndSubtractWrapAndLeaveVf := fun s x y nn =>
  ⟨writesOnly_of_exec_eq_setV (exec_addVxByte x nn s) (s.v_setV_add_toNat x (s.v x) nn),
    writesOnly_of_exec_eq_setV (exec_addVxVy x y s) (s.v_setV_add_toNat x (s.v x) (s.v y)),
    writesOnly_of_exec_eq_setV (exec_subVxVy x y s) (s.v_setV_sub_toNat x (s.v x) (s.v y)),
    decodesTo_of_formatXB rfl (decode_formatXB_seven x nn),
    decodesTo_of_formatXYN rfl (decode_formatXYN_eight_four x y),
    decodesTo_of_formatXYN rfl (decode_formatXYN_eight_five x y)⟩

end Sys2Proof.Machine
end

section
/-! The index load of rule R180: `ANNN` only sets `I`, to a word whose number is NNN. -/

namespace Sys2Proof

/-! ## The word of family 0xA -/

theorem decode_formatA_ten (nnn : BitVec 12) : decode (formatA 0xA nnn) = some (.ldIAddr nnn) := by
  simp [decode]

end Sys2Proof

namespace Sys2Proof.Claims

open Sys2Proof.Machine

theorem decodesTo_of_formatA {op : Nibble} {nnn : BitVec 12} {i : Instr} {k : Nat} (hk : op.toNat * 4096 = k)
    (h : decode (formatA op nnn) = some i) : DecodesTo (k + nnn.toNat) i := by
  rwa [DecodesTo, ← hk, ← formatA_eq_ofNat]

/-! ## The write of the index register -/

theorem keepsBut_setI (s : State) (a : Word) : KeepsBut [.I] s (s.setI a) := by
  intro p hp
  cases p with
  | I => exact absurd (List.mem_singleton_self _) hp
  | mem | V => exact fun _ => rfl
  | fb => exact fun _ _ => rfl
  | _ => rfl

end Sys2Proof.Claims

namespace Sys2Proof.Machine

open Sys2Proof.Claims

theorem exec_ldIAddr (nnn : BitVec 12) (s : State) : exec (.ldIAddr nnn) s = .next (s.setI (zextAddr nnn)) := rfl

/-- Settles O19: the word is one of family 0xA, and the instruction is one write of `I`, whose zero extension
keeps the number of NNN. -/
theorem loadIndexWritesTheAddress : Obligations.LoadIndexWritesTheAddress := fun s nnn =>
  ⟨decodesTo_of_formatA rfl (decode_formatA_ten nnn),
    _, exec_ldIAddr nnn s, zextAddr_toNat nnn, keepsBut_setI s _⟩

end Sys2Proof.Machine
end

section
/-! The clear of rule R200: `00E0` only sets the framebuffer, to the one with no lit pixel. -/

namespace Sys2Proof.Claims

open Sys2Proof.Machine

/-! ## The write of the framebuffer -/

theorem keepsBut_setFb (s : State) (f : Framebuffer) : KeepsBut [.fb] s (s.setFb f) := by
  intro p hp
  cases p with
  | fb => exact absurd (List.mem_singleton_self _) hp
  | mem | V => exact fun _ => rfl
  | _ => rfl

theorem decodesTo_cls : DecodesTo 0x00E0 .cls := by
  unfold DecodesTo
  decide

end Sys2Proof.Claims

namespace Sys2Proof.Machine

open Sys2Proof.Claims

theorem exec_cls (s : State) : exec .cls s = .next (s.setFb clearFramebuffer) := rfl

/-- Settles O26: the instruction is one write of the cleared framebuffer, in which no pixel is lit. -/
theorem clearTurnsEveryPixelOff : Obligations.ClearTurnsEveryPixelOff :=
  ⟨decodesTo_cls, fun s =>
    ⟨_, exec_cls s, fun y x _ _ => pixel_clear y x, keepsBut_setFb s clearFramebuffer⟩⟩

end Sys2Proof.Machine
end

section
/-! The key skips of rules R210 and R211: the byte in `V[x]` names a key only below 16, and a byte that names no
key satisfies neither condition. -/

namespace Sys2Proof

/-! ## The words of family 0xE -/

theorem decode_formatXB_fourteen_9E (x : RegNum) : decode (formatXB 0xE x 0x9E) = some (.skpVx x) := by
  simp [decode, decodeE]

theorem decode_formatXB_fourteen_A1 (x : RegNum) : decode (formatXB 0xE x 0xA1) = some (.sknpVx x) := by
  simp [decode, decodeE]

end Sys2Proof

namespace Sys2Proof.Claims

open Sys2Proof.Machine

/-- The number of a word of format XB, its fixed nibble and its function byte written together as `k`. -/
theorem decodesTo_of_formatXB_function {op : Nibble} {f : Byte} {x : RegNum} {i : Instr} {k : Nat}
    (hk : op.toNat * 4096 + f.toNat = k) (h : decode (formatXB op x f) = some i) :
    DecodesTo (k + x.val * 256) i := by
  have hword : k + x.val * 256 = op.toNat * 4096 + x.val * 256 + f.toNat := by
    omega
  rwa [DecodesTo, hword, ← formatXB_eq_ofNat]

end Sys2Proof.Claims

namespace Sys2Proof.Machine

open Sys2Proof.Claims

theorem State.keyState_of_toNat_eq (s : State) {b : Byte} {k : Key} (hk : b.toNat = k.val) :
    s.keyState b = some s.keys[k.val] :=
  s.keyState_eq_some.2 ⟨hk ▸ k.isLt, by simp only [hk]⟩

/-! ## A skip on the state of a key as a jump -/

section
variable {i : Instr} {s : State} {b : Byte} {pressed : Bool}

theorem jumpsTo_of_skipWhen_keyState_of_key {k : Key}
    (h : exec i s = skipWhen (s.keyState b == some pressed) s) (hk : b.toNat = k.val) :
    JumpsTo i s (if s.keys[k.val] = pressed then s.pc + 2 else s.pc) := by
  rw [s.keyState_of_toNat_eq hk] at h
  simpa only [beq_iff_eq, Option.some.injEq] using jumpsTo_of_exec_eq_skipWhen h

theorem jumpsTo_of_skipWhen_keyState_of_no_key
    (h : exec i s = skipWhen (s.keyState b == some pressed) s) (hb : 16 ≤ b.toNat) :
    JumpsTo i s s.pc := by
  rw [s.keyState_eq_none.2 hb] at h
  exact jumpsTo_of_exec_eq_skipWhen (c := false) h

end

theorem exec_skpVx (x : RegNum) (s : State) :
    exec (.skpVx x) s = skipWhen (s.keyState (s.v x) == some true) s := rfl

theorem exec_sknpVx (x : RegNum) (s : State) :
    exec (.sknpVx x) s = skipWhen (s.keyState (s.v x) == some false) s := rfl

/-- Settles O29: both instructions skip on the state of the key that `V[x]` names, so each jumps by that key's
state where there is one, and stays where `V[x]` is 16 or above; the words are those of family 0xE. -/
theorem keySkipsTestTheNamedKey : Obligations.KeySkipsTestTheNamedKey := fun s x =>
  have hskp := exec_skpVx x s
  have hsknp := exec_sknpVx x s
  ⟨fun _ hk => ⟨jumpsTo_of_skipWhen_keyState_of_key hskp hk, jumpsTo_of_skipWhen_keyState_of_key hsknp hk⟩,
    fun hb => ⟨jumpsTo_of_skipWhen_keyState_of_no_key hskp hb, jumpsTo_of_skipWhen_keyState_of_no_key hsknp hb⟩,
    decodesTo_of_formatXB_function rfl (decode_formatXB_fourteen_9E x),
    decodesTo_of_formatXB_function rfl (decode_formatXB_fourteen_A1 x)⟩

end Sys2Proof.Machine
end

section
/-! The observers of rules R256 and R257: a transaction is taken off the schedule, then SOUND and FB only set
what was returned last. -/

namespace Sys2Proof.Claims

open Sys2Proof.Machine

/-! ## The taking of a transaction, and the answer to it -/

theorem keepsBut_setSchedule (s : State) (ts : List Transaction) : KeepsBut [.schedule] s (s.setSchedule ts) := by
  intro p hp
  cases p with
  | schedule => exact absurd (List.mem_singleton_self _) hp
  | mem | V => exact fun _ => rfl
  | fb => exact fun _ _ => rfl
  | _ => rfl

section
variable {s s' : State} {a : Transaction}

theorem eq_setSchedule_of_takeTransaction (h : s.takeTransaction = (a, s')) :
    s' = s.setSchedule s'.schedule := by
  simpa only [h] using s.takeTransaction_frame

theorem keepsBut_of_takeTransaction (h : s.takeTransaction = (a, s')) : KeepsBut [.schedule] s s' := by
  rw [eq_setSchedule_of_takeTransaction h]
  exact keepsBut_setSchedule s _

theorem keepsBut_setResponse_of_takeTransaction (h : s.takeTransaction = (a, s')) (r : Response) :
    KeepsBut [.schedule, .response] s (s'.setResponse r) :=
  (keepsBut_of_takeTransaction h).trans (keepsBut_setResponse s' r)

end

end Sys2Proof.Claims

namespace Sys2Proof.Machine

open Sys2Proof.Claims

theorem step_of_takeTransaction {s s' : State} {a : Transaction} (h : s.takeTransaction = (a, s')) :
    step s = transact a s' := by
  simp only [step, nextTransaction, h]

/-! ## The two observers -/

theorem State.soundActive_iff (s : State) : s.soundActive = true ↔ 0 < s.st.toNat :=
  decide_eq_true_iff

theorem transact_sound (s : State) : transact .sound s = .next (s.setResponse (.sound s.soundActive)) := rfl

theorem transact_fb (s : State) : transact .fb s = .next (s.setResponse (.frame s.fb)) := rfl

/-- Settles O48: each observer only sets the response, in the state without the transaction, whose `st` and
framebuffer are those before it. -/
theorem observersReturnAndChangeNothing : Obligations.ObserversReturnAndChangeNothing := by
  refine fun s s' => ⟨fun h => ?_, fun h => ?_⟩
  · have hst : s'.st = s.st := keepsBut_of_takeTransaction h .st (by decide)
    exact ⟨_, _, (step_of_takeTransaction h).trans (transact_sound s'), rfl, hst ▸ s'.soundActive_iff, rfl,
      keepsBut_setResponse_of_takeTransaction h _⟩
  · have hfb : ∀ y x, pixel s'.fb y x = pixel s.fb y x := keepsBut_of_takeTransaction h .fb (by decide)
    exact ⟨_, _, (step_of_takeTransaction h).trans (transact_fb s'), rfl, hfb, rfl,
      keepsBut_setResponse_of_takeTransaction h _⟩

end Sys2Proof.Machine
end

section
/-! The encoding of rules R91 to R97: the decoder reads every instruction from its own word, so a word decodes
exactly where it fits a row of the table. -/

namespace Sys2Proof

/-! ## Decoding of an instruction's own word and bytes -/

theorem decode_encode (i : Instr) : decode (encode i) = some i := by
  cases i with
  | cls | ret => decide
  | jpAddr | callAddr | ldIAddr | jpV0Addr => simp [encode, decode]
  | seVxByte | sneVxByte | ldVxByte | addVxByte | rndVxByte => simp [encode, decode]
  | seVxVy | sneVxVy | drwVxVyNibble => simp [encode, decode]
  | ldVxVy | orVxVy | andVxVy | xorVxVy | addVxVy | subVxVy | shrVxVy | subnVxVy | shlVxVy =>
    simp [encode, decode, decode8]
  | skpVx | sknpVx => simp [encode, decode, decodeE]
  | ldVxDT | ldVxK | ldDTVx | ldSTVx | addIVx | ldFVx | ldBVx | ldMemVx | ldVxMem =>
    simp [encode, decode, decodeF]

theorem decodeBytes_of_decode {w : Word} {i : Instr} (h : decode w = some i) (rest : List Byte) :
    decodeBytes (highByte w :: lowByte w :: rest) = .instr i rest := by
  simp only [decodeBytes, wordOfBytes_highByte_lowByte, h]

/-- Settles O3: by the formats of R91 the fields of the instruction's word are its operands, and two bytes make
their word again. -/
theorem decodeOfEncodeIsTheInstruction : Obligations.DecodeOfEncodeIsTheInstruction := fun i rest =>
  ⟨decode_encode i, decodeBytes_of_decode (decode_encode i) rest⟩

/-- Settles O4: family by family, the word is put together again from the fields the decoder read. -/
theorem decodedWordIsTheInstructionsWord : Obligations.DecodedWordIsTheInstructionsWord := fun _ _ =>
  encode_of_decode

/-- Settles O1, by evaluation of the decoder on the nine words. -/
theorem sampleWordsDecode : Obligations.SampleWordsDecode := by
  unfold Obligations.SampleWordsDecode
  decide

end Sys2Proof

namespace Sys2Proof.Claims

/-! ## Patterns as numbers -/

theorem decodesTo_of_encode_toNat {k : Nat} {i : Instr} (h : (encode i).toNat = k) : DecodesTo k i := by
  rw [DecodesTo, ← h, BitVec.ofNat_toNat, BitVec.setWidth_eq]
  exact decode_encode i

section
variable {op : Nibble} {x y : RegNum} {k : Nat}

theorem formatXB_toNat_of_function {f : Byte} (hk : op.toNat * 4096 + f.toNat = k) :
    (formatXB op x f).toNat = k + x.val * 256 := by
  subst hk
  rw [formatXB_toNat]
  omega

theorem formatXYN_toNat_of_function {f : Nibble} (hk : op.toNat * 4096 + f.toNat = k) :
    (formatXYN op x y f).toNat = k + (x.val * 256 + y.val * 16) := by
  subst hk
  rw [formatXYN_toNat]
  omega

theorem formatXYN_toNat_of_opcode {n : Nibble} (hk : op.toNat * 4096 = k) :
    (formatXYN op x y n).toNat = k + (x.val * 256 + y.val * 16) + n.toNat := by
  subst hk
  rw [formatXYN_toNat]
  omega

end

/-- Settles O2: the number of a pattern is that of the instruction's word, which decodes to the instruction. -/
theorem everyPatternDecodesWithItsOperands : Obligations.EveryPatternDecodesWithItsOperands := by
  intro x y nn nnn n a b xy xf
  refine ⟨⟨?z1, ?z2, ?a1, ?a2, ?a3, ?a4⟩, ⟨?b1, ?b2, ?b3, ?b4, ?b5⟩,
    ⟨?c1, ?c2, ?c3, ?c4, ?c5, ?c6, ?c7, ?c8, ?c9, ?c10, ?c11, ?d⟩,
    ?e1, ?e2, ?e3, ?e4, ?e5, ?e6, ?e7, ?e8, ?e9, ?e10, ?e11⟩ <;> apply decodesTo_of_encode_toNat
  case z1 | z2 => rfl
  case a1 | a2 | a3 | a4 => exact formatA_toNat _ _
  case b1 | b2 | b3 | b4 | b5 => exact (formatXB_toNat _ _ _).trans (Nat.add_assoc _ _ _)
  case d => exact formatXYN_toNat_of_opcode rfl
  case c1 | c2 | c3 | c4 | c5 | c6 | c7 | c8 | c9 | c10 | c11 => exact formatXYN_toNat_of_function rfl
  case e1 | e2 | e3 | e4 | e5 | e6 | e7 | e8 | e9 | e10 | e11 => exact formatXB_toNat_of_function rfl

end Sys2Proof.Claims

namespace Sys2Proof

/-! ## The rows of the table -/

@[simp] theorem n0_and (v w : Word) : n0 (v &&& w) = n0 v &&& n0 w := BitVec.extractLsb'_and ..

@[simp] theorem n3_and (v w : Word) : n3 (v &&& w) = n3 v &&& n3 w := BitVec.extractLsb'_and ..

@[simp] theorem fieldNN_and (v w : Word) : fieldNN (v &&& w) = fieldNN v &&& fieldNN w :=
  BitVec.extractLsb'_and ..

section
variable {w m v : Word} {op : Nibble}

/-- Where a mask covers the first nibble, a fitting word has the first nibble of the match. -/
theorem n0_of_masked (h : w &&& m = v) (hm : n0 m = BitVec.allOnes 4) : n0 w = n0 v := by
  rw [← h, n0_and, hm, BitVec.and_allOnes]

theorem n3_of_masked (h : w &&& m = v) (hm : n3 m = BitVec.allOnes 4) : n3 w = n3 v := by
  rw [← h, n3_and, hm, BitVec.and_allOnes]

theorem fieldNN_of_masked (h : w &&& m = v) (hm : fieldNN m = BitVec.allOnes 8) : fieldNN w = fieldNN v := by
  rw [← h, fieldNN_and, hm, BitVec.and_allOnes]

theorem formatA_of_masked (h : w &&& 0xF000#16 = v) (hop : n0 v = op) : formatA op (fieldNNN w) = w :=
  formatA_of_n0 (congrArg BitVec.toNat ((n0_of_masked h (by decide)).trans hop))

theorem formatXB_of_masked (h : w &&& 0xF000#16 = v) (hop : n0 v = op) :
    formatXB op (fieldX w) (fieldNN w) = w :=
  formatXB_of_n0 (congrArg BitVec.toNat ((n0_of_masked h (by decide)).trans hop))

theorem formatXYN_of_masked (h : w &&& 0xF000#16 = v) (hop : n0 v = op) :
    formatXYN op (fieldX w) (fieldY w) (n3 w) = w :=
  formatXYN_of_n0 (congrArg BitVec.toNat ((n0_of_masked h (by decide)).trans hop))

theorem formatXYN_of_masked_function {f : Nibble} (h : w &&& 0xF00F#16 = v) (hop : n0 v = op)
    (hf : n3 v = f) : formatXYN op (fieldX w) (fieldY w) f = w :=
  formatXYN_of_function (congrArg BitVec.toNat ((n0_of_masked h (by decide)).trans hop))
    (congrArg BitVec.toNat ((n3_of_masked h (by decide)).trans hf))

theorem formatXB_of_masked_function {f : Byte} (h : w &&& 0xF0FF#16 = v) (hop : n0 v = op)
    (hf : fieldNN v = f) : formatXB op (fieldX w) f = w :=
  formatXB_of_function (congrArg BitVec.toNat ((n0_of_masked h (by decide)).trans hop))
    (congrArg BitVec.toNat ((fieldNN_of_masked h (by decide)).trans hf))

theorem eq_of_masked_full (h : w &&& 0xFFFF#16 = v) : v = w := by
  rw [← h]
  exact BitVec.and_allOnes

end

/-- A word that fits a row of the table is the word of an instruction of that row. -/
theorem exists_encode_of_fits_row {w : Word} {r : Row} (hr : r ∈ opcodeTable) (h : w &&& r.mask = r.value) :
    ∃ i, encode i = w ∧ i.row = r := by
  simp only [opcodeTable, opcodeRowsLow, opcodeRowsHigh, List.cons_append, List.nil_append, List.mem_cons,
    List.not_mem_nil, or_false] at hr
  obtain rfl | rfl | rfl | rfl | rfl | rfl | rfl | rfl | rfl | rfl | rfl | rfl | rfl | rfl | rfl | rfl | rfl |
    rfl | rfl | rfl | rfl | rfl | rfl | rfl | rfl | rfl | rfl | rfl | rfl | rfl | rfl | rfl | rfl | rfl := hr
  · exact ⟨.cls, eq_of_masked_full h, rfl⟩
  · exact ⟨.ret, eq_of_masked_full h, rfl⟩
  · exact ⟨.jpAddr _, formatA_of_masked h rfl, rfl⟩
  · exact ⟨.callAddr _, formatA_of_masked h rfl, rfl⟩
  · exact ⟨.seVxByte _ _, formatXB_of_masked h rfl, rfl⟩
  · exact ⟨.sneVxByte _ _, formatXB_of_masked h rfl, rfl⟩
  · exact ⟨.seVxVy _ _, formatXYN_of_masked_function h rfl rfl, rfl⟩
  · exact ⟨.ldVxByte _ _, formatXB_of_masked h rfl, rfl⟩
  · exact ⟨.addVxByte _ _, formatXB_of_masked h rfl, rfl⟩
  · exact ⟨.ldVxVy _ _, formatXYN_of_masked_function h rfl rfl, rfl⟩
  · exact ⟨.orVxVy _ _, formatXYN_of_masked_function h rfl rfl, rfl⟩
  · exact ⟨.andVxVy _ _, formatXYN_of_masked_function h rfl rfl, rfl⟩
  · exact ⟨.xorVxVy _ _, formatXYN_of_masked_function h rfl rfl, rfl⟩
  · exact ⟨.addVxVy _ _, formatXYN_of_masked_function h rfl rfl, rfl⟩
  · exact ⟨.subVxVy _ _, formatXYN_of_masked_function h rfl rfl, rfl⟩
  · exact ⟨.shrVxVy _ _, formatXYN_of_masked_function h rfl rfl, rfl⟩
  · exact ⟨.subnVxVy _ _, formatXYN_of_masked_function h rfl rfl, rfl⟩
  · exact ⟨.shlVxVy _ _, formatXYN_of_masked_function h rfl rfl, rfl⟩
  · exact ⟨.sneVxVy _ _, formatXYN_of_masked_function h rfl rfl, rfl⟩
  · exact ⟨.ldIAddr _, formatA_of_masked h rfl, rfl⟩
  · exact ⟨.jpV0Addr _, formatA_of_masked h rfl, rfl⟩
  · exact ⟨.rndVxByte _ _, formatXB_of_masked h rfl, rfl⟩
  · exact ⟨.drwVxVyNibble _ _ _, formatXYN_of_masked h rfl, rfl⟩
  · exact ⟨.skpVx _, formatXB_of_masked_function h rfl rfl, rfl⟩
  · exact ⟨.sknpVx _, formatXB_of_masked_function h rfl rfl, rfl⟩
  · exact ⟨.ldVxDT _, formatXB_of_masked_function h rfl rfl, rfl⟩
  · exact ⟨.ldVxK _, formatXB_of_masked_function h rfl rfl, rfl⟩
  · exact ⟨.ldDTVx _, formatXB_of_masked_function h rfl rfl, rfl⟩
  · exact ⟨.ldSTVx _, formatXB_of_masked_function h rfl rfl, rfl⟩
  · exact ⟨.addIVx _, formatXB_of_masked_function h rfl rfl, rfl⟩
  · exact ⟨.ldFVx _, formatXB_of_masked_function h rfl rfl, rfl⟩
  · exact ⟨.ldBVx _, formatXB_of_masked_function h rfl rfl, rfl⟩
  · exact ⟨.ldMemVx _, formatXB_of_masked_function h rfl rfl, rfl⟩
  · exact ⟨.ldVxMem _, formatXB_of_masked_function h rfl rfl, rfl⟩

/-- Of the rows of the table, a word fits exactly its instruction's. -/
theorem fits_row_iff {w : Word} {r : Row} (hr : r ∈ opcodeTable) :
    w &&& r.mask = r.value ↔ ∃ i, decode w = some i ∧ i.row = r := by
  refine ⟨fun h => ?_, ?_⟩
  · obtain ⟨i, rfl, hrow⟩ := exists_encode_of_fits_row hr h
    exact ⟨i, decode_encode i, hrow⟩
  · rintro ⟨i, hi, rfl⟩
    rw [← encode_of_decode hi]
    exact (encode_fits_row i).1

/-- Settles O5: a fitting word is put together from the row's opcode and function and its own fields, so it is
an instruction's word; two rows it fits are both the row of the one instruction it decodes to. -/
theorem maskAndMatchSelectTheInstruction : Obligations.MaskAndMatchSelectTheInstruction := by
  refine ⟨rfl, fun w r hr => fits_row_iff hr, fun w r q hr hq hwr hwq => ?_⟩
  obtain ⟨i, hi, rfl⟩ := (fits_row_iff hr).1 hwr
  obtain ⟨j, hj, rfl⟩ := (fits_row_iff hq).1 hwq
  rw [Option.some.inj (hi.symm.trans hj)]

end Sys2Proof

namespace Sys2Proof.Claims

/-! ## The gaps of the table -/

section
variable {w : Word}

theorem decode0_eq_none_iff : decode0 w = none ↔ w ≠ 0x00E0 ∧ w ≠ 0x00EE := by
  simp [decode0, ite_eq_iff]

theorem decode8_eq_none_iff : decode8 w = none ↔ (n3 w).toNat ∈ [0x8, 0x9, 0xA, 0xB, 0xC, 0xD, 0xF] := by
  have hlt := (n3 w).isLt
  unfold decode8
  interval_cases (n3 w).toNat <;> simp

theorem decodeE_eq_none_iff : decodeE w = none ↔ fieldNN w ≠ 0x9E ∧ fieldNN w ≠ 0xA1 := by
  unfold decodeE
  split
  case h_3 => simp only [imp_false] at *; simp [← BitVec.toNat_inj, *]
  all_goals simp [← BitVec.toNat_inj, *]

theorem decodeF_eq_none_iff :
    decodeF w = none ↔ (fieldNN w).toNat ∉ [0x07, 0x0A, 0x15, 0x18, 0x1E, 0x29, 0x33, 0x55, 0x65] := by
  unfold decodeF
  split
  case h_10 => simp only [imp_false] at *; simp [*]
  all_goals simp [*]

/-- Settles O6: six families have gaps of their own, and every word of the other ten is legal. -/
theorem illegalWordsAreTheTablesGaps : Obligations.IllegalWordsAreTheTablesGaps := by
  intro w
  have hlt := (n0 w).isLt
  unfold decode Illegal
  simp only [← BitVec.toNat_inj (x := n0 w)]
  -- the families 0x0 to 0xF, in order
  interval_cases (n0 w).toNat
  · simp [decode0_eq_none_iff]
  · simp
  · simp
  · simp
  · simp
  · simp
  · simp
  · simp
  · simp [decode8_eq_none_iff]
  · simp
  · simp
  · simp
  · simp
  · simp
  · simp [decodeE_eq_none_iff]
  · simp [decodeF_eq_none_iff]

end

end Sys2Proof.Claims

end

section
/-! Frames: one lemma for each single update of the state, and how frames of several changes go together. -/

namespace Sys2Proof.Claims

open Sys2Proof.Machine

/-! ## Frames of several changes -/

section
variable {s t u : State}

theorem KeepsBut.mono {ps qs : List Part} (h : KeepsBut ps s t) (hsub : ps ⊆ qs) : KeepsBut qs s t :=
  fun p hp => h p fun hmem => hp (hsub hmem)

theorem keepsBut_singleton {q : Part} (h : ∀ p, p ≠ q → Part.Same s t p) : KeepsBut [q] s t :=
  fun p hp => h p (List.ne_of_not_mem_cons hp)

theorem regsBut_of_keepsBut {ps : List Part} (h : KeepsBut ps s t) (hV : .V ∉ ps) (rs : List RegNum) :
    RegsBut rs s t :=
  fun r _ => h .V hV r

theorem RegsBut.trans {ps qs : List RegNum} (hst : RegsBut ps s t) (htu : RegsBut qs t u) :
    RegsBut (ps ++ qs) s u := by
  intro r hr
  rw [List.mem_append, not_or] at hr
  exact (htu r hr.2).trans (hst r hr.1)

theorem RegsBut.mono {ps qs : List RegNum} (h : RegsBut ps s t) (hsub : ps ⊆ qs) : RegsBut qs s t :=
  fun r hr => h r fun hmem => hr (hsub hmem)

end

/-! ## Frames of single updates -/

section
variable (s : State)

theorem keepsBut_setMem (m : Memory) : KeepsBut [.mem] s (s.setMem m) := by
  refine keepsBut_singleton fun p hp => ?_
  cases p <;> simp [Part.Same] at hp ⊢

theorem keepsBut_setStack (k : List Word) : KeepsBut [.stack] s (s.setStack k) := by
  refine keepsBut_singleton fun p hp => ?_
  cases p <;> simp [Part.Same] at hp ⊢

theorem keepsBut_setDt (b : Byte) : KeepsBut [.dt] s (s.setDt b) := by
  refine keepsBut_singleton fun p hp => ?_
  cases p <;> simp [Part.Same] at hp ⊢

theorem keepsBut_setSt (b : Byte) : KeepsBut [.st] s (s.setSt b) := by
  refine keepsBut_singleton fun p hp => ?_
  cases p <;> simp [Part.Same] at hp ⊢

theorem keepsBut_setKeys (k : Vector Bool 16) : KeepsBut [.keys] s (s.setKeys k) := by
  refine keepsBut_singleton fun p hp => ?_
  cases p <;> simp [Part.Same] at hp ⊢

theorem keepsBut_setLatch (k : Option Key) : KeepsBut [.latch] s (s.setLatch k) := by
  refine keepsBut_singleton fun p hp => ?_
  cases p <;> simp [Part.Same] at hp ⊢

theorem keepsBut_setT60Acc (d : Duration) : KeepsBut [.t60Acc] s (s.setT60Acc d) := by
  refine keepsBut_singleton fun p hp => ?_
  cases p <;> simp [Part.Same] at hp ⊢

theorem keepsBut_setTcpuAcc (d : Duration) : KeepsBut [.tcpuAcc] s (s.setTcpuAcc d) := by
  refine keepsBut_singleton fun p hp => ?_
  cases p <;> simp [Part.Same] at hp ⊢

theorem keepsBut_setTickIn (i : TickInput) : KeepsBut [.tickIn] s (s.setTickIn i) := by
  refine keepsBut_singleton fun p hp => ?_
  cases p <;> simp [Part.Same] at hp ⊢

theorem keepsBut_setDraws (n : Nat) : KeepsBut [.draws] s (s.setDraws n) := by
  refine keepsBut_singleton fun p hp => ?_
  cases p <;> simp [Part.Same] at hp ⊢

end

end Sys2Proof.Claims
end

section
/-! Logic and shifts of rules R163 to R165 and R168 to R170, timer access and the key wait of rules R212 and R220
to R222. A shift writes the flag first, then shifts what its source register holds after that. -/

namespace Sys2Proof.Machine

open Sys2Proof.Claims

/-! ## Logic -/

section
variable (x y : RegNum) (s : State)

theorem exec_orVxVy : exec (.orVxVy x y) s = .next (s.setV x (s.v x ||| s.v y)) := rfl

theorem exec_andVxVy : exec (.andVxVy x y) s = .next (s.setV x (s.v x &&& s.v y)) := rfl

theorem exec_xorVxVy : exec (.xorVxVy x y) s = .next (s.setV x (s.v x ^^^ s.v y)) := rfl

theorem exec_subnVxVy : exec (.subnVxVy x y) s = .next (s.setV x (s.v y - s.v x)) := rfl

end

/-- Settles O9: each of the four is one register write, of the bits of the operands or of the difference. -/
theorem logicAndReverseSubtractLeaveVf : Obligations.LogicAndReverseSubtractLeaveVf := by
  refine fun s x y => ⟨writesOnly_of_exec_eq_setV (exec_orVxVy x y s) fun k => ?_,
    writesOnly_of_exec_eq_setV (exec_andVxVy x y s) fun k => ?_,
    writesOnly_of_exec_eq_setV (exec_xorVxVy x y s) fun k => ?_,
    writesOnly_of_exec_eq_setV (exec_subnVxVy x y s) (s.v_setV_sub_toNat x (s.v y) (s.v x))⟩
  · rw [State.v_setV_self, BitVec.getLsbD_or]
  · rw [State.v_setV_self, BitVec.getLsbD_and]
  · rw [State.v_setV_self, BitVec.getLsbD_xor]

/-! ## Shifts -/

@[simp] theorem State.setV_setV (s : State) (x : RegNum) (a b : Byte) : (s.setV x a).setV x b = s.setV x b := by
  simp [State.setV]

/-- The register a shift reads (rules R168, R170). -/
def State.shiftSource (s : State) (x y : RegNum) : RegNum := if s.cfg.copyVyWhileShifting then y else x

/-- A shift: the flag to VF, then `V[x]` from its source. -/
def State.shifted (s : State) (x y : RegNum) (flag : Byte) (op : Byte → Byte) : State :=
  (s.setFlag flag).setV x (op ((s.setFlag flag).v (s.shiftSource x y)))

theorem State.copyForShift_eq (s : State) (x y : RegNum) :
    s.copyForShift x y = s.setV x (s.v (s.shiftSource x y)) := by
  unfold State.copyForShift State.shiftSource
  split
  · rfl
  · exact (s.setV_v x).symm

theorem shifted_eq_of_copy (s : State) (x y : RegNum) (flag : Byte) (op : Byte → Byte) :
    ((s.setFlag flag).copyForShift x y).setV x (op (((s.setFlag flag).copyForShift x y).v x)) =
      s.shifted x y flag op := by
  rw [State.copyForShift_eq, State.v_setV_self, State.setV_setV]
  rfl

theorem exec_shrVxVy (x y : RegNum) (s : State) :
    exec (.shrVxVy x y) s = .next (s.shifted x y (shiftRightFlag (s.v x)) (· >>> 1)) :=
  congrArg Host.Outcome.next (shifted_eq_of_copy s x y _ (· >>> 1))

theorem exec_shlVxVy (x y : RegNum) (s : State) :
    exec (.shlVxVy x y) s = .next (s.shifted x y (shiftLeftFlag (s.v x)) (· <<< 1)) :=
  congrArg Host.Outcome.next (shifted_eq_of_copy s x y _ (· <<< 1))

section
variable (s : State) (x y : RegNum) (flag : Byte) (op : Byte → Byte)

theorem keepsBut_shifted : KeepsBut [.V] s (s.shifted x y flag op) :=
  ((keepsBut_setV s vF flag).trans (keepsBut_setV _ x _)).mono (by decide)

theorem regsBut_shifted : RegsBut [x, vF] s (s.shifted x y flag op) :=
  ((regsBut_setV s vF flag).trans (regsBut_setV _ x _)).mono (by simp)

theorem State.v_shifted_vF (hx : x ≠ vF) : (s.shifted x y flag op).v vF = flag := by
  rw [State.shifted, State.v_setV_of_ne _ _ _ _ hx.symm, State.setFlag, State.v_setV_self]

theorem State.v_shifted_of_source_ne (h : s.shiftSource x y ≠ vF) :
    (s.shifted x y flag op).v x = op (s.v (s.shiftSource x y)) := by
  rw [State.shifted, State.v_setV_self, State.setFlag, State.v_setV_of_ne _ _ _ _ h]

/-- A shift whose source is VF shifts the flag. -/
theorem State.v_shifted_of_source_eq (h : s.shiftSource x y = vF) : (s.shifted x y flag op).v x = op flag := by
  rw [State.shifted, State.v_setV_self, h, State.setFlag, State.v_setV_self]

end

section
variable {s : State} {x y : RegNum}

theorem State.shiftSource_of_quirk (h : s.cfg.copyVyWhileShifting = true) : s.shiftSource x y = y := if_pos h

theorem State.shiftSource_of_no_quirk (h : s.cfg.copyVyWhileShifting = false) : s.shiftSource x y = x := by
  simp [State.shiftSource, h]

end

/-- The corner cases (a) to (e) of a shift whose flag has the number `f` and is shifted to zero, and which takes
a byte of number `b` to one of number `g b`. -/
theorem shift_cases {i : Instr} {s : State} {x y : RegNum} {flag : Byte} {op : Byte → Byte} {f : Nat}
    {g : Nat → Nat} (hexec : exec i s = .next (s.shifted x y flag op)) (hzero : op flag = 0)
    (hf : flag.toNat = f) (hg : ∀ b, (op b).toNat = g b.toNat) :
    ∃ t, exec i s = .next t ∧ RegsBut [x, vF] s t ∧ KeepsBut [.V] s t ∧
      (x ≠ vF → (t.v vF).toNat = f) ∧
      (x ≠ vF → s.cfg.copyVyWhileShifting = false → (t.v x).toNat = g (s.v x).toNat) ∧
      (x ≠ vF → s.cfg.copyVyWhileShifting = true → y ≠ vF → (t.v x).toNat = g (s.v y).toNat) ∧
      (x ≠ vF → s.cfg.copyVyWhileShifting = true → y = vF → t.v x = 0) ∧
      (x = vF → s.cfg.copyVyWhileShifting = false → t.v vF = 0) ∧
      (x = vF → s.cfg.copyVyWhileShifting = true → y ≠ vF → (t.v vF).toNat = g (s.v y).toNat) ∧
      (x = vF → s.cfg.copyVyWhileShifting = true → y = vF → t.v vF = 0) := by
  have hne {r : RegNum} (hsrc : s.shiftSource x y = r) (hr : r ≠ vF) :
      ((s.shifted x y flag op).v x).toNat = g (s.v r).toNat := by
    subst hsrc
    rw [State.v_shifted_of_source_ne s x y flag op hr, hg]
  have heq {r : RegNum} (hsrc : s.shiftSource x y = r) (hr : r = vF) : (s.shifted x y flag op).v x = 0 := by
    rw [State.v_shifted_of_source_eq s x y flag op (hsrc.trans hr), hzero]
  refine ⟨_, hexec, regsBut_shifted s x y flag op, keepsBut_shifted s x y flag op,
    fun hx => by rw [State.v_shifted_vF s x y flag op hx, hf],
    fun hx hq => hne (State.shiftSource_of_no_quirk hq) hx,
    fun _ hq hy => hne (State.shiftSource_of_quirk hq) hy,
    fun _ hq hy => heq (State.shiftSource_of_quirk hq) hy, fun hx hq => ?_, fun hx hq hy => ?_,
    fun hx hq hy => ?_⟩
  · rw [← heq (State.shiftSource_of_no_quirk hq) hx, hx]
  · rw [← hne (State.shiftSource_of_quirk hq) hy, hx]
  · rw [← heq (State.shiftSource_of_quirk hq) hy, hx]

theorem shiftRightFlag_toNat (b : Byte) : (shiftRightFlag b).toNat = b.toNat % 2 := by
  rw [shiftRightFlag, BitVec.toNat_and]
  exact Nat.and_one_is_mod _

theorem shiftRightFlag_shifted (b : Byte) : shiftRightFlag b >>> 1 = 0 := by
  apply BitVec.eq_of_toNat_eq
  rw [BitVec.toNat_ushiftRight, shiftRightFlag_toNat, Nat.shiftRight_one]
  exact Nat.div_eq_of_lt (Nat.mod_lt _ Nat.two_pos)

/-- The flag of 8XYE is bit 7 at its own place. -/
theorem shiftLeftFlag_eq (b : Byte) : shiftLeftFlag b = if 128 ≤ b.toNat then 0x80 else 0x00 := by
  have hbit : b.getLsbD 7 = decide (128 ≤ b.toNat) := BitVec.msb_eq_decide b
  rw [shiftLeftFlag, show (0x80 : Byte) = BitVec.twoPow 8 7 from rfl, BitVec.and_twoPow, hbit]
  simp only [decide_eq_true_eq]
  rfl

theorem shiftLeftFlag_toNat (b : Byte) : (shiftLeftFlag b).toNat = if 128 ≤ b.toNat then 128 else 0 := by
  rw [shiftLeftFlag_eq]
  split <;> rfl

theorem shiftLeftFlag_shifted (b : Byte) : shiftLeftFlag b <<< 1 = 0 := by
  rw [shiftLeftFlag_eq]
  split <;> rfl

/-- Settles O10: the flag, 0 or 1, is shifted out, and a shift by one bit halves. -/
theorem shiftRightHalvesAndFlagsOldVx : Obligations.ShiftRightHalvesAndFlagsOldVx := fun s x y =>
  shift_cases (exec_shrVxVy x y s) (shiftRightFlag_shifted _) (shiftRightFlag_toNat _)
    (g := (· / 2)) fun b => (BitVec.toNat_ushiftRight b 1).trans (Nat.shiftRight_one _)

/-- Settles O11: the flag, 0 or 0x80, is shifted out, and a shift by one bit doubles modulo 256. -/
theorem shiftLeftDoublesAndFlagsOldVx : Obligations.ShiftLeftDoublesAndFlagsOldVx := fun s x y =>
  shift_cases (exec_shlVxVy x y s) (shiftLeftFlag_shifted _) (shiftLeftFlag_toNat _)
    (g := fun n => n * 2 % 256) fun b => by rw [BitVec.toNat_shiftLeft, Nat.shiftLeft_eq]

/-! ## Timer access -/

section
variable (x : RegNum) (s : State)

theorem exec_ldVxDT : exec (.ldVxDT x) s = .next (s.setV x s.dt) := rfl

theorem exec_ldDTVx : exec (.ldDTVx x) s = .next (s.setDt (s.v x)) := rfl

theorem exec_ldSTVx : exec (.ldSTVx x) s = .next (s.setSt (s.v x)) := rfl

end

/-- Settles O31: the three are one write each, of `V[x]`, of `dt` and of `st`. -/
theorem timerAccessMovesTheCounters : Obligations.TimerAccessMovesTheCounters := fun s x =>
  ⟨writesOnly_of_exec_eq_setV (exec_ldVxDT x s) (s.v_setV_self x s.dt),
    ⟨_, exec_ldDTVx x s, rfl, keepsBut_setDt s (s.v x)⟩, _, exec_ldSTVx x s, rfl, keepsBut_setSt s (s.v x)⟩

/-! ## The key wait -/

section
variable {x : RegNum} {s : State}

theorem exec_ldVxK_of_key {k : Key} (h : s.tickIn.key = some k) :
    exec (.ldVxK x) s = .next (s.setV x (zextKey k)) := by
  simp only [exec, execLdVxK, h]

theorem exec_ldVxK_of_no_key (h : s.tickIn.key = none) : exec (.ldVxK x) s = .next (s.setPc s.opc) := by
  simp only [exec, execLdVxK, h]

end

theorem zextKey_toNat (k : Key) : (zextKey k).toNat = k.val :=
  Nat.mod_eq_of_lt (Nat.lt_trans k.isLt (by decide))

/-- Settles O30: with a captured key the instruction is one register write, without one it is a jump to its own
address. -/
theorem keyWaitTakesTheCapturedKeyOrRewinds : Obligations.KeyWaitTakesTheCapturedKeyOrRewinds := by
  refine fun s x => ⟨fun k hk => writesOnly_of_exec_eq_setV (exec_ldVxK_of_key hk) ?_,
    fun hk => ⟨_, exec_ldVxK_of_no_key hk, rfl, keepsBut_setPc s _⟩⟩
  rw [State.v_setV_self, zextKey_toNat]

end Sys2Proof.Machine
end

section
/-! Calls and returns of rules R29 to R31, R140 and R142: the stack as a list of which the last pushed entry is the
head. -/

namespace Sys2Proof.Machine

open Sys2Proof.Claims

/-! ## The entries of the stack -/

/-- Entries are counted from the first pushed one, so a push leaves the older ones in place (rule R29). -/
theorem State.stackEntry_of_cons {s t : State} {a : Word} (h : s.stack = a :: t.stack) (k : Nat) :
    s.stackEntry k = if k = t.sp then some a else t.stackEntry k := by
  have hlen : t.stack.reverse.length = t.sp := List.length_reverse
  rw [State.stackEntry, h, List.reverse_cons]
  obtain hk | rfl | hk := Nat.lt_trichotomy k t.sp
  · rw [if_neg hk.ne, List.getElem?_append_left (hlen ▸ hk), State.stackEntry]
  · rw [if_pos rfl, ← hlen, List.getElem?_concat_length]
  · rw [if_neg hk.ne', State.stackEntry, List.getElem?_eq_none (by simpa [hlen] using hk),
      List.getElem?_eq_none (hlen ▸ hk.le)]

theorem State.sp_of_cons {s t : State} {a : Word} (h : s.stack = a :: t.stack) : s.sp = t.sp + 1 := by
  rw [State.sp, h]
  rfl

/-! ## The two instructions -/

section
variable {s : State}

theorem exec_callAddr_of_full (nnn : BitVec 12) (h : s.sp = 1024) :
    exec (.callAddr nnn) s = .fault .stackOverflow := by
  rw [exec, execCallAddr, State.push, if_pos (show s.sp = stackSlots from h)]
  rfl

theorem exec_callAddr_of_room (nnn : BitVec 12) (h : s.sp ≠ 1024) :
    exec (.callAddr nnn) s = .next ((s.setStack (s.pc :: s.stack)).setPc (zextAddr nnn)) := by
  rw [exec, execCallAddr, State.push, if_neg (show s.sp ≠ stackSlots from h)]
  rfl

theorem exec_callAddr_eq_next {nnn : BitVec 12} {t : State} (h : exec (.callAddr nnn) s = .next t) :
    s.sp ≠ 1024 ∧ t = (s.setStack (s.pc :: s.stack)).setPc (zextAddr nnn) := by
  by_cases hfull : s.sp = 1024
  · rw [exec_callAddr_of_full nnn hfull] at h
    cases h
  · rw [exec_callAddr_of_room nnn hfull] at h
    exact ⟨hfull, (Host.Outcome.next.inj h).symm⟩

theorem exec_ret_of_cons {a : Word} {rest : List Word} (h : s.stack = a :: rest) :
    exec .ret s = .next ((s.setStack rest).setPc a) := by
  simp only [exec, execRet, State.pop, h]

theorem exec_ret_of_nil (h : s.stack = []) :
    exec .ret s = .next (s.setResponse (.fault ⟨.popEmptyStack, s.opc, 0x0, 0x0, 0xE, 0xE⟩)) := by
  simp only [exec, execRet, State.pop, h, raiseFault]

end

/-- Settles O16: with room the call is a push of `pc` and a jump, and a push moves no older entry. -/
theorem callPushesTheReturnAddress : Obligations.CallPushesTheReturnAddress := by
  refine fun s nnn => ⟨fun h => ?_, exec_callAddr_of_full nnn⟩
  have hentry := fun k => State.stackEntry_of_cons (s := (s.setStack (s.pc :: s.stack)).setPc (zextAddr nnn))
    (t := s) rfl k
  exact ⟨_, exec_callAddr_of_room nnn h.ne, zextAddr_toNat nnn, rfl, (hentry s.sp).trans (if_pos rfl),
    fun k hk => (hentry k).trans (if_neg hk.ne),
    (keepsBut_setStack s _).trans (keepsBut_setPc _ _)⟩

/-- Settles O17: with an entry the return takes it off and jumps to it, without one it only sets the response. -/
theorem returnPopsOrRaisesPopEmptyStack : Obligations.ReturnPopsOrRaisesPopEmptyStack := by
  refine fun s => ⟨fun h => ?_, fun h => ?_⟩
  · obtain ⟨a, rest, hs⟩ := List.exists_cons_of_length_pos (Nat.pos_of_ne_zero h)
    have hcons : s.stack = a :: ((s.setStack rest).setPc a).stack := hs
    have hsp : s.sp - 1 = ((s.setStack rest).setPc a).sp := by rw [State.sp_of_cons hcons, Nat.add_sub_cancel]
    exact ⟨_, exec_ret_of_cons hs, (State.stackEntry_of_cons hcons _).trans (if_pos hsp), hsp.symm,
      fun k hk => ((State.stackEntry_of_cons hcons k).trans (if_neg hk.ne)).symm,
      (keepsBut_setStack s _).trans (keepsBut_setPc _ _)⟩
  · exact ⟨_, exec_ret_of_nil (List.length_eq_zero_iff.1 h), rfl, keepsBut_setResponse s _⟩

/-- Settles O18: the call leaves `pc` on top of the stack, from where the return takes it. -/
theorem callThenReturnRestoresPcAndStack : Obligations.CallThenReturnRestoresPcAndStack := by
  intro s t u nnn hcall hu
  obtain ⟨-, rfl⟩ := exec_callAddr_eq_next hcall
  exact ⟨_, exec_ret_of_cons hu, rfl, rfl⟩

end Sys2Proof.Machine
end

section
/-! Index arithmetic of rules R181 and R182. -/

namespace Sys2Proof.Machine

open Sys2Proof.Claims

/-! ## Adding to the index -/

section
variable {s : State} {x : RegNum}

theorem exec_addIVx_of_overflow
    (h : s.cfg.indexOverflowFlag = true ∧ 0x0FFF < (s.I + zextByte (s.v x)).toNat) :
    exec (.addIVx x) s = .next ((s.setI (s.I + zextByte (s.v x))).setFlag 1) :=
  congrArg Host.Outcome.next (if_pos (by simpa [indexOverflows] using h))

theorem exec_addIVx_of_no_overflow
    (h : ¬(s.cfg.indexOverflowFlag = true ∧ 0x0FFF < (s.I + zextByte (s.v x)).toNat)) :
    exec (.addIVx x) s = .next (s.setI (s.I + zextByte (s.v x))) :=
  congrArg Host.Outcome.next (if_neg (by simpa [indexOverflows] using h))

end

/-- Settles O20: `I` takes the sum, which wraps as a word, and VF is written only where the quirk's condition on
that sum holds. -/
theorem addIndexWrapsAndFlagsOverflow : Obligations.AddIndexWrapsAndFlagsOverflow := by
  intro s x
  have hsum : (s.I + zextByte (s.v x)).toNat = (s.I.toNat + (s.v x).toNat) % 65536 := by
    rw [BitVec.toNat_add, zextByte_toNat]
  by_cases h : s.cfg.indexOverflowFlag = true ∧ 0x0FFF < (s.I + zextByte (s.v x)).toNat
  · exact ⟨_, exec_addIVx_of_overflow h, hsum, fun _ => State.v_setV_self _ _ _, fun hn => absurd h hn,
      regsBut_setV _ _ _, (keepsBut_setI s _).trans (keepsBut_setV _ _ _)⟩
  · exact ⟨_, exec_addIVx_of_no_overflow h, hsum, fun hp => absurd hp h, fun _ => rfl,
      regsBut_of_keepsBut (keepsBut_setI s _) (by decide) _, (keepsBut_setI s _).mono (by decide)⟩

/-! ## The glyph address -/

/-- The legal Configurations of rule R281, by their bounds as numbers. -/
theorem legal_iff (c : Configuration) : c.legal = true ↔ LegalConfiguration c := by
  simp [Configuration.legal, Configuration.ipsLegal, Configuration.fontLegal, Configuration.programLegal,
    LegalConfiguration, fontBytes, memSize, and_assoc]

theorem glyphAddr_toNat (c : Configuration) (b : Byte) :
    (glyphAddr c b).toNat = (c.fontStart.toNat + b.toNat % 16 * 5) % 65536 := by
  have hmask : (b &&& 0x0F).toNat = b.toNat % 16 := Nat.and_two_pow_sub_one_eq_mod b.toNat 4
  rw [glyphAddr, BitVec.toNat_add, BitVec.toNat_ofNat, hmask, Nat.add_mod_mod, fontCharSize]

theorem exec_ldFVx (x : RegNum) (s : State) : exec (.ldFVx x) s = .next (s.setI (glyphAddr s.cfg (s.v x))) := rfl

/-- Settles O21: the instruction is one write of `I`; the last glyph of a legal Configuration starts at 0xFFB or
below, so its address does not wrap. -/
theorem glyphAddressIsFiveBytesPerDigit : Obligations.GlyphAddressIsFiveBytesPerDigit := by
  refine fun s x => ⟨_, exec_ldFVx x s, glyphAddr_toNat _ _, fun hlegal => ?_, keepsBut_setI s _⟩
  obtain ⟨-, hfont, -⟩ := (legal_iff s.cfg).1 hlegal
  have hlast : (s.v x).toNat % 16 ≤ 15 := Nat.le_of_lt_succ (Nat.mod_lt _ (by decide))
  rw [State.setI_I, glyphAddr_toNat, Nat.mod_eq_of_lt (by omega)]
  exact ⟨rfl, by omega⟩

end Sys2Proof.Machine
end

section
/-! Memory transfer of rules R183 to R185: a run of bytes stored at rising addresses, a block of registers loaded
from them, and an abort where the last address is above 0xFFF. -/

namespace Sys2Proof.Machine

open Sys2Proof.Claims

/-! ## Runs of bytes -/

section
variable (s : State) {a : Nat} {bs : List Byte}

theorem State.memWriteAll_of_inside (h : a + bs.length ≤ memSize) :
    s.memWriteAll a bs = some (s.setMem (s.mem.putAll s.cfg a bs)) := by
  rw [State.memWriteAll_eq, if_pos (Or.inr h)]

theorem State.memWriteAll_of_outside (hne : bs ≠ []) (h : memSize < a + bs.length) :
    s.memWriteAll a bs = none := by
  rw [State.memWriteAll_eq, if_neg (by simp [hne, h])]

variable {s} (hw : s.mem.wf s.cfg = true) (ha : a + bs.length ≤ memSize)
include hw ha

theorem State.byteAt_putAll_inside {k : Nat} (hk : k < bs.length) :
    (s.setMem (s.mem.putAll s.cfg a bs)).byteAt (a + k) = bs[k] := by
  rw [State.byteAt_putAll s hw ha, if_pos (Nat.le_add_right a k), Nat.add_sub_cancel_left,
    List.getElem?_eq_getElem hk, Option.getD_some]

theorem State.byteAt_putAll_outside {x : Nat} (hx : x < a ∨ a + bs.length ≤ x) :
    (s.setMem (s.mem.putAll s.cfg a bs)).byteAt x = s.byteAt x := by
  rw [State.byteAt_putAll s hw ha]
  split
  · rw [List.getElem?_eq_none (by omega), Option.getD_none]
  · rfl

end

/-! ## The decimal digits -/

section
variable {s : State} {x : RegNum}

theorem exec_ldBVx_of_inside (h : s.I.toNat + 2 ≤ 0xFFF) :
    exec (.ldBVx x) s = .next (s.setMem (s.mem.putAll s.cfg (s.dataAddr 0) (bcdDigits (s.v x)))) := by
  rw [exec, execLdBVx, State.memWriteAll_of_inside s (Nat.succ_le_succ h)]
  rfl

theorem exec_ldBVx_of_outside (h : 0xFFF < s.I.toNat + 2) : exec (.ldBVx x) s = .fault .outOfBounds := by
  rw [exec, execLdBVx, State.memWriteAll_of_outside s (a := s.dataAddr 0) (bs := bcdDigits _)
    (List.cons_ne_nil _ _) (Nat.succ_lt_succ h)]
  rfl

end

/-- A digit of a byte is a byte. -/
theorem digit_toNat {n : Nat} {b : Byte} (h : n ≤ b.toNat) : (BitVec.ofNat 8 n).toNat = n :=
  Nat.mod_eq_of_lt (Nat.lt_of_le_of_lt h b.isLt)

/-- Settles O22: the three digits are a run of bytes from `I`. -/
theorem bcdStoresTheThreeDigits : Obligations.BcdStoresTheThreeDigits := by
  refine fun s x hw => ⟨fun h => ?_, exec_ldBVx_of_outside⟩
  have ha : s.dataAddr 0 + (bcdDigits (s.v x)).length ≤ memSize := Nat.succ_le_succ h
  have hin {k : Nat} (hk : k < 3) := State.byteAt_putAll_inside hw ha (k := k) hk
  refine ⟨_, exec_ldBVx_of_inside h, ?_, ?_, ?_, fun a hout => State.byteAt_putAll_outside hw ha hout,
    keepsBut_setMem s _⟩
  · exact (congrArg BitVec.toNat (hin (k := 0) (by decide))).trans (digit_toNat (Nat.div_le_self _ _))
  · exact (congrArg BitVec.toNat (hin (k := 1) (by decide))).trans
      (digit_toNat ((Nat.mod_le _ _).trans (Nat.div_le_self _ _)))
  · exact (congrArg BitVec.toNat (hin (k := 2) (by decide))).trans (digit_toNat (Nat.mod_le _ _))

/-- Settles O25: an FX33 that answers a next state stored its digits, the first two of them at `pc` and
`pc + 1`, where the fetch reads. -/
theorem storedBytesAreFetched : Obligations.StoredBytesAreFetched := by
  intro s t x hw hI hexec
  have hinside : s.I.toNat + 2 ≤ 0xFFF := by
    by_contra hout
    rw [exec_ldBVx_of_outside (not_le.1 hout)] at hexec
    cases hexec
  obtain ⟨t', ht', hhundreds, htens, -, -, hkeeps⟩ := (bcdStoresTheThreeDigits s x hw).1 hinside
  obtain rfl : t = t' := Host.Outcome.next.inj (hexec.symm.trans ht')
  have hpc : t.pc = s.I := Eq.trans (hkeeps .pc (by decide)) hI.symm
  refine ⟨_, State.memReadWord_of_inside t (by rw [hpc]; omega), ?_⟩
  rw [wordOfBytes_toNat, hpc, ← hhundreds, ← htens]
  rfl

/-! ## The register block -/

section
variable {s : State} {x : RegNum}

theorem State.indexAfterBlock_toNat_of_quirk (hq : s.cfg.incrementIndexDuringSaveLoad = true)
    (h : s.I.toNat + x.val ≤ 0xFFF) : (s.indexAfterBlock x).toNat = s.I.toNat + x.val + 1 := by
  rw [State.indexAfterBlock, if_pos hq, BitVec.toNat_add, BitVec.toNat_ofNat]
  omega

theorem State.indexAfterBlock_of_no_quirk (hq : s.cfg.incrementIndexDuringSaveLoad = false) :
    s.indexAfterBlock x = s.I :=
  if_neg (by simp [hq])

theorem exec_ldMemVx_of_inside (h : s.I.toNat + x.val ≤ 0xFFF) :
    exec (.ldMemVx x) s = .next ((s.setMem (s.mem.putAll s.cfg (s.dataAddr 0) (s.regsUpTo x))).setI
      (s.indexAfterBlock x)) := by
  rw [exec, execLdMemVx, State.memWriteAll_of_inside s (by rw [s.length_regsUpTo]; exact Nat.succ_le_succ h)]
  rfl

theorem exec_ldMemVx_of_outside (h : 0xFFF < s.I.toNat + x.val) :
    exec (.ldMemVx x) s = .fault .outOfBounds := by
  have hlen := s.length_regsUpTo x
  rw [exec, execLdMemVx, State.memWriteAll_of_outside s (List.ne_nil_of_length_eq_add_one hlen)
    (by rw [hlen]; exact Nat.succ_lt_succ h)]
  rfl

/-- The load of a block inside memory: the registers up to `V[x]` take their bytes, then `I` is set. -/
theorem exec_ldVxMem_of_inside (h : s.I.toNat + x.val ≤ 0xFFF) :
    ∃ u : State, exec (.ldVxMem x) s = .next (u.setI (s.indexAfterBlock x)) ∧ u = { s with V := u.V } ∧
      ∀ r : RegNum, u.v r = if r ≤ x then s.byteAt (s.dataAddr r.val) else s.v r := by
  have hx := x.isLt
  have hsome : (s.loadRegs 0 (x.val + 1)).isSome = true :=
    (s.loadRegs_isSome 0 (x.val + 1)).2 (Or.inr (Nat.succ_le_succ h))
  obtain ⟨u, hu⟩ := Option.isSome_iff_exists.1 hsome
  obtain ⟨hframe, hv⟩ := s.loadRegs_eq_some (by omega) hu
  refine ⟨u, by rw [exec, execLdVxMem, hu]; rfl, hframe, fun r => ?_⟩
  have hr : (0 ≤ r.val ∧ r.val < 0 + (x.val + 1)) ↔ r ≤ x := by rw [Fin.le_def]; omega
  rw [hv, if_congr hr rfl rfl]

theorem exec_ldVxMem_of_outside (h : 0xFFF < s.I.toNat + x.val) :
    exec (.ldVxMem x) s = .fault .outOfBounds := by
  have hnone : s.loadRegs 0 (x.val + 1) = none := by
    rw [← Option.not_isSome_iff_eq_none, s.loadRegs_isSome]
    exact not_or.2 ⟨Nat.succ_ne_zero _, not_le.2 (Nat.succ_lt_succ h)⟩
  rw [exec, execLdVxMem, hnone]
  rfl

end

/-- Settles O23: the registers up to `V[x]` are a run of bytes from `I`, and `I` is set after them. -/
theorem storeRegistersFromIndexUpward : Obligations.StoreRegistersFromIndexUpward := by
  refine fun s x hw => ⟨fun h => ?_, exec_ldMemVx_of_outside⟩
  have hlen := s.length_regsUpTo x
  have ha : s.dataAddr 0 + (s.regsUpTo x).length ≤ memSize := by rw [hlen]; exact Nat.succ_le_succ h
  refine ⟨_, exec_ldMemVx_of_inside h, fun r hr => ?_, fun a hout => ?_,
    fun hq => State.indexAfterBlock_toNat_of_quirk hq h, fun hq => State.indexAfterBlock_of_no_quirk hq,
    (keepsBut_setMem s _).trans (keepsBut_setI _ _)⟩
  · have hr' : r.val < (s.regsUpTo x).length := by rw [hlen]; exact Nat.lt_succ_of_le hr
    have hget := s.getElem?_regsUpTo x r
    rw [if_pos (Fin.le_def.1 hr), List.getElem?_eq_getElem hr'] at hget
    exact (State.byteAt_putAll_inside hw ha hr').trans (Option.some.inj hget)
  · exact State.byteAt_putAll_outside hw ha (by rw [hlen]; exact hout)

theorem keepsBut_of_eq_with_V {s u : State} (h : u = { s with V := u.V }) : KeepsBut [.V] s u := by
  refine keepsBut_singleton fun p hp => ?_
  rw [h]
  cases p with
  | V => exact absurd rfl hp
  | mem => exact fun _ => rfl
  | fb => exact fun _ _ => rfl
  | _ => rfl

/-- Settles O24: the block load writes registers alone, and `I` is set after it. -/
theorem loadRegistersFromIndexUpward : Obligations.LoadRegistersFromIndexUpward := by
  refine fun s x => ⟨fun h => ?_, exec_ldVxMem_of_outside⟩
  obtain ⟨u, hexec, hframe, hv⟩ := exec_ldVxMem_of_inside h
  exact ⟨_, hexec, fun r hr => (hv r).trans (if_pos hr), fun r hr => (hv r).trans (if_neg (not_le.2 hr)),
    fun hq => State.indexAfterBlock_toNat_of_quirk hq h, fun hq => State.indexAfterBlock_of_no_quirk hq,
    (keepsBut_of_eq_with_V hframe).trans (keepsBut_setI _ _)⟩

end Sys2Proof.Machine
end

section
/-! The sprite of rule R201: the rows of a sprite toggle exactly the pixels of its closed form, and record a
collision exactly where one of these was lit. -/

namespace Sys2Proof.Machine

open Sys2Proof.Claims

/-! ## The pixels of some rows of a sprite -/

/-- The pixels that the rows `row` to `row + n - 1` of the sprite at `I` set, clipped at the screen's edges. -/
def rowsSet (s : State) (x0 y0 row n y x : Nat) : Bool :=
  decide (y0 + row ≤ y ∧ y < y0 + row + n ∧ y < 32) && columnSets x0 (s.byteAt (s.dataAddr (y - y0))) 0 8 x

/-- All rows together set the pixels of the closed form. -/
theorem rowsSet_iff_spriteSets {s : State} {x0 y0 n y x : Nat} :
    rowsSet s x0 y0 0 n y x = true ↔ SpriteSets s x0 y0 n y x := by
  simp [rowsSet, columnSets, SpriteSets, spriteBit, and_assoc]

section
variable {s : State} {x0 y0 row n y x : Nat}

theorem rowsSet_eq_false (h : ¬(y0 + row ≤ y ∧ y < y0 + row + n ∧ y < 32)) :
    rowsSet s x0 y0 row n y x = false := by
  simp only [rowsSet, h, decide_false, Bool.false_and]

theorem rowsSet_first (h : y0 + row < 32) :
    rowsSet s x0 y0 row (n + 1) (y0 + row) x = columnSets x0 (s.byteAt (s.dataAddr row)) 0 8 x := by
  simp [rowsSet, h]

theorem rowsSet_rest (h : y ≠ y0 + row) : rowsSet s x0 y0 row (n + 1) y x = rowsSet s x0 y0 (row + 1) n y x := by
  have hiff : (y0 + row ≤ y ∧ y < y0 + row + (n + 1) ∧ y < 32) ↔
      (y0 + (row + 1) ≤ y ∧ y < y0 + (row + 1) + n ∧ y < 32) := by omega
  simp only [rowsSet, hiff]

theorem ne_of_rowsSet_succ (h : rowsSet s x0 y0 (row + 1) n y x = true) : y ≠ y0 + row := by
  rintro rfl
  rw [rowsSet_eq_false (by omega)] at h
  cases h

end

/-! ## Drawing rows -/

/-- Drawing rows toggles exactly the pixels they set. -/
theorem pixel_drawRows {s : State} {y0 x0 row n : Nat} {c d : Canvas}
    (h : drawRows s y0 x0 c row n = some d) (y x : Nat) :
    pixel d.fb y x = (pixel c.fb y x ^^ rowsSet s x0 y0 row n y x) := by
  induction n generalizing c row with
  | zero =>
    cases h
    rw [rowsSet_eq_false (by omega), Bool.xor_false]
  | succ n ih =>
    rw [drawRows] at h
    split at h
    · next hoff =>
      cases h
      rw [rowsSet_eq_false (by omega), Bool.xor_false]
    · next hon =>
      split at h
      · next b hb =>
        obtain ⟨-, rfl⟩ := (State.memRead_eq_some s).1 hb
        rw [ih h, Canvas.pixel_drawColumns _ _ _ _ _ _ (not_le.1 hon)]
        by_cases hy : y = y0 + row
        · subst hy
          rw [rowsSet_first (not_le.1 hon), rowsSet_eq_false (by omega)]
          simp
        · rw [rowsSet_rest hy]
          simp [hy]
      · cases h

/-- Drawing rows records a collision exactly where a pixel they set was lit. -/
theorem collided_drawRows {s : State} {y0 x0 row n : Nat} {c d : Canvas}
    (h : drawRows s y0 x0 c row n = some d) :
    d.collided = true ↔
      c.collided = true ∨ ∃ y x, pixel c.fb y x = true ∧ rowsSet s x0 y0 row n y x = true := by
  induction n generalizing c row with
  | zero =>
    cases h
    have hnone (y x : Nat) : rowsSet s x0 y0 row 0 y x = false := rowsSet_eq_false (by omega)
    simp [hnone]
  | succ n ih =>
    rw [drawRows] at h
    split at h
    · next hoff =>
      cases h
      have hnone (y x : Nat) : rowsSet s x0 y0 row (n + 1) y x = false := rowsSet_eq_false (by omega)
      simp [hnone]
    · next hon =>
      split at h
      · next b hb =>
        obtain ⟨-, rfl⟩ := (State.memRead_eq_some s).1 hb
        rw [ih h, Canvas.collided_drawColumns, or_assoc]
        have hlater {y x : Nat} (hy : y ≠ y0 + row) :
            pixel (c.drawColumns (y0 + row) x0 (s.byteAt (s.dataAddr row)) 0 8).fb y x = pixel c.fb y x := by
          rw [Canvas.pixel_drawColumns _ _ _ _ _ _ (not_le.1 hon)]
          simp [hy]
        refine or_congr_right ⟨?_, ?_⟩
        · rintro (⟨x, hset, hlit⟩ | ⟨y, x, hlit, hset⟩)
          · exact ⟨y0 + row, x, hlit, (rowsSet_first (not_le.1 hon)).trans hset⟩
          · have hy := ne_of_rowsSet_succ hset
            exact ⟨y, x, (hlater hy).symm.trans hlit, (rowsSet_rest hy).trans hset⟩
        · rintro ⟨y, x, hlit, hset⟩
          by_cases hy : y = y0 + row
          · subst hy
            exact Or.inl ⟨x, (rowsSet_first (not_le.1 hon)).symm.trans hset, hlit⟩
          · exact Or.inr ⟨y, x, (hlater hy).trans hlit, (rowsSet_rest hy).symm.trans hset⟩
      · cases h

theorem drawRows_isSome_iff_spriteInMemory {s : State} {y0 x0 n : Nat} {c : Canvas} :
    (drawRows s y0 x0 c 0 n).isSome = true ↔ SpriteInMemory s y0 n := by
  rw [drawRows_isSome]
  simp only [Nat.add_zero, SpriteInMemory, memSize, Nat.lt_succ_iff]

/-! ## The instruction -/

section
variable {s : State} {x y : RegNum} {n : Nibble}

theorem exec_drwVxVyNibble_of_inside (h : SpriteInMemory s (startY s y) n.toNat) :
    ∃ c : Canvas, exec (.drwVxVyNibble x y n) s = .next ((s.setFb c.fb).setFlag (collisionFlag c.collided)) ∧
      (∀ y' x', pixel c.fb y' x' = (pixel s.fb y' x' ^^ rowsSet s (startX s x) (startY s y) 0 n.toNat y' x')) ∧
      (c.collided = true ↔
        ∃ y' x', pixel s.fb y' x' = true ∧ SpriteSets s (startX s x) (startY s y) n.toNat y' x') := by
  obtain ⟨c, hc⟩ := Option.isSome_iff_exists.1
    (drawRows_isSome_iff_spriteInMemory (x0 := startX s x) (c := ⟨s.fb, false⟩).2 h)
  refine ⟨c, ?_, pixel_drawRows hc, ?_⟩
  · exact congrArg (fun o => orOutOfBounds (Option.map _ o)) hc
  · simpa [rowsSet_iff_spriteSets] using collided_drawRows hc

theorem exec_drwVxVyNibble_of_outside (h : ¬SpriteInMemory s (startY s y) n.toNat) :
    exec (.drwVxVyNibble x y n) s = .fault .outOfBounds := by
  rw [← drawRows_isSome_iff_spriteInMemory (x0 := startX s x) (c := ⟨s.fb, false⟩),
    Option.not_isSome_iff_eq_none] at h
  exact congrArg (fun o => orOutOfBounds (Option.map _ o)) h

end

/-- Settles O27: the rows of the sprite toggle the pixels of its closed form, and the flag is the collision they
record. -/
theorem drawXorsTheClippedSprite : Obligations.DrawXorsTheClippedSprite := by
  refine fun s x y n => ⟨fun h => ?_, exec_drwVxVyNibble_of_outside⟩
  obtain ⟨c, hexec, hpixel, hcollided⟩ := exec_drwVxVyNibble_of_inside (x := x) h
  refine ⟨_, hexec, fun y' x' => ?_, fun hlit => ?_, fun hnone => ?_, regsBut_setV _ vF _,
    ((keepsBut_setFb s _).trans (keepsBut_setV _ _ _)).mono (by decide)⟩
  · rw [← rowsSet_iff_spriteSets, State.setFlag, State.setV_fb, State.setFb_fb, hpixel, Bool.xor_iff_ne]
    cases pixel s.fb y' x' <;> simp [Xor]
  · rw [State.setFlag, State.v_setV_self, hcollided.2 hlit]
    rfl
  · rw [State.setFlag, State.v_setV_self, Bool.eq_false_iff.2 (hnone ∘ hcollided.1)]
    rfl

/-! ## Drawing twice -/

section
variable {s t : State}

theorem spriteSets_congr (hI : t.I = s.I) (hbyte : ∀ a, t.byteAt a = s.byteAt a) {x0 y0 n y x : Nat} :
    SpriteSets t x0 y0 n y x ↔ SpriteSets s x0 y0 n y x := by
  simp only [SpriteSets, hI, hbyte]

theorem spriteInMemory_congr (hI : t.I = s.I) {y0 n : Nat} : SpriteInMemory t y0 n ↔ SpriteInMemory s y0 n := by
  simp only [SpriteInMemory, hI]

end

/-- Settles O28: the second draw sets the same pixels, as the first left I, the memory and both coordinates; the
exclusive or of a pixel with the same bit twice is the pixel. -/
theorem drawingTwiceRestoresTheFramebuffer : Obligations.DrawingTwiceRestoresTheFramebuffer := by
  intro s t x y n hx hy hexec
  have hin : SpriteInMemory s (startY s y) n.toNat := by
    by_contra hout
    rw [exec_drwVxVyNibble_of_outside hout] at hexec
    cases hexec
  obtain ⟨t', ht', hpixel, -, -, hregs, hkeeps⟩ := (drawXorsTheClippedSprite s x y n).1 hin
  obtain rfl : t = t' := Host.Outcome.next.inj (hexec.symm.trans ht')
  have hI : t.I = s.I := hkeeps .I (by decide)
  have hX : startX t x = startX s x := by rw [startX, hregs x (by simpa using hx), startX]
  have hY : startY t y = startY s y := by rw [startY, hregs y (by simpa using hy), startY]
  obtain ⟨u, hu, hpixel', hlit, hunlit, -, -⟩ := (drawXorsTheClippedSprite t x y n).1
    (by rwa [hY, spriteInMemory_congr hI])
  simp only [hX, hY, spriteSets_congr hI (hkeeps .mem (by decide))] at hpixel' hlit hunlit
  have hflag : u.v vF = 1 ↔ ∃ y' x', SpriteSets s (startX s x) (startY s y) n.toNat y' x' ∧
      pixel t.fb y' x' = true := by
    simp only [and_comm (a := SpriteSets _ _ _ _ _ _)]
    refine ⟨fun h1 => ?_, hlit⟩
    by_contra hnone
    exact absurd (h1.symm.trans (hunlit hnone)) (by decide)
  refine ⟨u, hu, framebuffer_ext fun y' x' => Bool.eq_iff_iff.2 ?_, hflag, fun hclear => hflag.trans ?_⟩
  · rw [hpixel', hpixel]
    unfold Xor
    tauto
  · simp [hpixel, hclear, Xor]

end Sys2Proof.Machine
end

section
/-! What every instruction may write, when it aborts, and that it does not read `st`: one case for each of the 34
instructions, by the equation of its meaning. -/

namespace Sys2Proof.Machine

open Sys2Proof.Claims

/-! ## The random byte -/

theorem exec_rndVxByte (x : RegNum) (nn : Byte) (s : State) :
    exec (.rndVxByte x nn) s = .next ((s.setDraws (s.draws + 1)).setV x (s.tickIn.entropy &&& nn)) := rfl

/-! ## The parts and registers an instruction writes (rule R20) -/

/-- From `s` to `t` only what the row of `i` names has changed. -/
def WritesWithin (i : Instr) (s t : State) : Prop :=
  KeepsBut (writesParts i) s t ∧ ∀ r, ¬WritesRegister i r → t.v r = s.v r

section
variable {i : Instr} {s t u : State} {x : RegNum} {b : Byte} {ps : List Part}

theorem writesWithin_of_keepsBut (ht : exec i s = .next t) (hu : exec i s = .next u) (hkeeps : KeepsBut ps s u)
    (hps : ps = writesParts i) (hV : .V ∉ ps) : WritesWithin i s t := by
  obtain rfl : t = u := Host.Outcome.next.inj (ht.symm.trans hu)
  exact ⟨hps ▸ hkeeps, fun r _ => hkeeps .V hV r⟩

theorem writesWithin_of_regsBut {rs : List RegNum} (ht : exec i s = .next t) (hu : exec i s = .next u)
    (hkeeps : KeepsBut ps s u) (hps : ps = writesParts i) (hregs : RegsBut rs s u)
    (hrs : ∀ r ∈ rs, WritesRegister i r) : WritesWithin i s t := by
  obtain rfl : t = u := Host.Outcome.next.inj (ht.symm.trans hu)
  exact ⟨hps ▸ hkeeps, fun r hr => hregs r fun hmem => hr (hrs r hmem)⟩

theorem writesWithin_of_setV (ht : exec i s = .next t) (hu : exec i s = .next (s.setV x b))
    (hps : [.V] = writesParts i) (hx : WritesRegister i x) : WritesWithin i s t :=
  writesWithin_of_regsBut ht hu (keepsBut_setV s x b) hps (regsBut_setV s x b)
    fun _ hr => List.mem_singleton.1 hr ▸ hx

theorem writesWithin_of_shifted {y : RegNum} {flag : Byte} {op : Byte → Byte} (ht : exec i s = .next t)
    (hu : exec i s = .next (s.shifted x y flag op)) (hps : [.V] = writesParts i) (hx : WritesRegister i x)
    (hF : WritesRegister i vF) : WritesWithin i s t :=
  writesWithin_of_regsBut ht hu (keepsBut_shifted s x y flag op) hps (regsBut_shifted s x y flag op)
    fun r hr => by
      obtain rfl | rfl := by simpa using hr
      · exact hx
      · exact hF

end

/-- Settles O33, by cases on the instruction: each is a composition of the single writes its row names. -/
theorem instructionsWriteOnlyTheirState : Obligations.InstructionsWriteOnlyTheirState := by
  intro i s t ht
  change WritesWithin i s t
  cases i with
  | ldVxByte | addVxByte | ldVxVy | orVxVy | andVxVy | xorVxVy | addVxVy | subVxVy | subnVxVy | ldVxDT =>
    exact writesWithin_of_setV ht rfl rfl rfl
  | shrVxVy x y => exact writesWithin_of_shifted ht (exec_shrVxVy x y s) rfl (Or.inl rfl) (Or.inr rfl)
  | shlVxVy x y => exact writesWithin_of_shifted ht (exec_shlVxVy x y s) rfl (Or.inl rfl) (Or.inr rfl)
  | rndVxByte x nn =>
    exact writesWithin_of_regsBut ht rfl
      (((keepsBut_setDraws s _).trans (keepsBut_setV _ _ _)).mono (qs := [.V, .draws]) (by decide)) rfl
      (regsBut_setV _ x _) fun r hr => List.mem_singleton.1 hr
  | jpAddr | jpV0Addr => exact writesWithin_of_keepsBut ht rfl (keepsBut_setPc s _) rfl (by decide)
  | seVxByte | sneVxByte | seVxVy | sneVxVy | skpVx | sknpVx =>
    exact writesWithin_of_keepsBut ht (skipWhen_eq_setPc _ s) (keepsBut_setPc s _) rfl (by decide)
  | callAddr nnn =>
    obtain ⟨-, rfl⟩ := exec_callAddr_eq_next ht
    exact writesWithin_of_keepsBut ht ht ((keepsBut_setStack s _).trans (keepsBut_setPc _ _)) rfl (by decide)
  | ret =>
    cases hs : s.stack with
    | cons a rest =>
      exact writesWithin_of_keepsBut ht (exec_ret_of_cons hs)
        (((keepsBut_setStack s _).trans (keepsBut_setPc _ _)).mono (qs := [.stack, .pc, .response]) (by decide))
        rfl (by decide)
    | nil =>
      exact writesWithin_of_keepsBut ht (exec_ret_of_nil hs)
        ((keepsBut_setResponse s _).mono (qs := [.stack, .pc, .response]) (by decide)) rfl (by decide)
  | cls => exact writesWithin_of_keepsBut ht rfl (keepsBut_setFb s _) rfl (by decide)
  | ldIAddr | ldFVx => exact writesWithin_of_keepsBut ht rfl (keepsBut_setI s _) rfl (by decide)
  | ldDTVx => exact writesWithin_of_keepsBut ht rfl (keepsBut_setDt s _) rfl (by decide)
  | ldSTVx => exact writesWithin_of_keepsBut ht rfl (keepsBut_setSt s _) rfl (by decide)
  | ldVxK x =>
    cases hk : s.tickIn.key with
    | some k =>
      exact writesWithin_of_regsBut ht (exec_ldVxK_of_key hk)
        ((keepsBut_setV s _ _).mono (qs := [.V, .pc]) (by decide)) rfl (regsBut_setV s x _)
        fun r hr => List.mem_singleton.1 hr
    | none =>
      exact writesWithin_of_regsBut (rs := []) ht (exec_ldVxK_of_no_key hk)
        ((keepsBut_setPc s _).mono (qs := [.V, .pc]) (by decide)) rfl (fun _ _ => rfl)
        fun r hr => absurd hr List.not_mem_nil
  | addIVx x =>
    obtain ⟨u, hu, -, -, -, hregs, hkeeps⟩ := addIndexWrapsAndFlagsOverflow s x
    exact writesWithin_of_regsBut ht hu hkeeps rfl hregs fun r hr => List.mem_singleton.1 hr
  | drwVxVyNibble x y n =>
    by_cases hin : SpriteInMemory s (startY s y) n.toNat
    · obtain ⟨u, hu, -, -, -, hregs, hkeeps⟩ := (drawXorsTheClippedSprite s x y n).1 hin
      exact writesWithin_of_regsBut ht hu (hkeeps.mono (qs := [.fb, .V]) (by decide)) rfl hregs
        fun r hr => List.mem_singleton.1 hr
    · cases ht.symm.trans (exec_drwVxVyNibble_of_outside hin)
  | ldBVx x =>
    by_cases hin : s.I.toNat + 2 ≤ 0xFFF
    · exact writesWithin_of_keepsBut ht (exec_ldBVx_of_inside hin) (keepsBut_setMem s _) rfl (by decide)
    · cases ht.symm.trans (exec_ldBVx_of_outside (not_le.1 hin))
  | ldMemVx x =>
    by_cases hin : s.I.toNat + x.val ≤ 0xFFF
    · exact writesWithin_of_keepsBut ht (exec_ldMemVx_of_inside hin)
        ((keepsBut_setMem s _).trans (keepsBut_setI _ _)) rfl (by decide)
    · cases ht.symm.trans (exec_ldMemVx_of_outside (not_le.1 hin))
  | ldVxMem x =>
    by_cases hin : s.I.toNat + x.val ≤ 0xFFF
    · obtain ⟨u, hu, -, hv, -, -, hkeeps⟩ := (loadRegistersFromIndexUpward s x).1 hin
      obtain rfl : t = u := Host.Outcome.next.inj (ht.symm.trans hu)
      exact ⟨hkeeps, fun r hr => hv r (not_le.1 hr)⟩
    · cases ht.symm.trans (exec_ldVxMem_of_outside (not_le.1 hin))

/-- Settles O12: CXNN masks the byte of this TICK and counts one draw; every other row of rule R20 leaves the
count out. -/
theorem randomMasksExactlyOneDraw : Obligations.RandomMasksExactlyOneDraw := by
  refine ⟨fun s x nn => ⟨_, exec_rndVxByte x nn s, fun k => ?_, rfl, regsBut_setV _ x _,
    ((keepsBut_setDraws s _).trans (keepsBut_setV _ _ _)).mono (by decide)⟩, fun i s t ht hi => ?_⟩
  · rw [State.v_setV_self, BitVec.getLsbD_and]
  · have hrow : Part.draws ∉ writesParts i := by
      cases i with
      | rndVxByte x nn => exact absurd rfl (hi x nn)
      | _ => simp [writesParts]
    exact (instructionsWriteOnlyTheirState i s t ht).1 .draws hrow

/-! ## When an instruction aborts (rule R239) -/

/-- The instruction aborts exactly as the table says, is not refused, and else answers a next state. -/
def AbortsByTable (i : Instr) (s : State) : Prop :=
  (∀ f, exec i s = .fault f ↔ Aborts i s f) ∧ (∀ r, exec i s ≠ .refused r) ∧
    ((∀ f, ¬Aborts i s f) → ∃ t, exec i s = .next t)

section
variable {i : Instr} {s : State}

theorem abortsByTable_of_next {t : State} (h : exec i s = .next t) (hno : ∀ f, ¬Aborts i s f) :
    AbortsByTable i s :=
  ⟨fun f => by simp [h, hno], fun r => by simp [h], fun _ => ⟨t, h⟩⟩

theorem abortsByTable_of_fault {g : Fault} (h : exec i s = .fault g) (habort : ∀ f, Aborts i s f ↔ f = g) :
    AbortsByTable i s :=
  ⟨fun f => by simp [h, habort, eq_comm], fun r => by simp [h], fun hno => absurd ((habort g).2 rfl) (hno g)⟩

/-- The rows of the table that name a reason and a condition. -/
theorem abortsByTable_of_condition {g : Fault} {p : Prop} (htable : ∀ f, Aborts i s f ↔ f = g ∧ p)
    (hfault : p → exec i s = .fault g) (hnext : ¬p → ∃ t, exec i s = .next t) : AbortsByTable i s := by
  by_cases hp : p
  · exact abortsByTable_of_fault (hfault hp) fun f => (htable f).trans (and_iff_left hp)
  · obtain ⟨t, ht⟩ := hnext hp
    exact abortsByTable_of_next ht fun f hf => hp ((htable f).1 hf).2

end

/-- Settles O34, by cases on the instruction: five rows name a condition, under which the meaning is the abort, and
all other meanings are next states. -/
theorem instructionsAbortExactlyOutOfBoundsOrOnAFullStack :
    Obligations.InstructionsAbortExactlyOutOfBoundsOrOnAFullStack := by
  intro i s
  change AbortsByTable i s
  cases i with
  | callAddr nnn =>
    exact abortsByTable_of_condition (fun _ => Iff.rfl) (exec_callAddr_of_full nnn)
      fun h => ⟨_, exec_callAddr_of_room nnn h⟩
  | ldBVx x =>
    exact abortsByTable_of_condition (fun _ => Iff.rfl) exec_ldBVx_of_outside
      fun h => ⟨_, exec_ldBVx_of_inside (not_lt.1 h)⟩
  | ldMemVx x =>
    exact abortsByTable_of_condition (fun _ => Iff.rfl) exec_ldMemVx_of_outside
      fun h => ⟨_, exec_ldMemVx_of_inside (not_lt.1 h)⟩
  | ldVxMem x =>
    refine abortsByTable_of_condition (fun _ => Iff.rfl) exec_ldVxMem_of_outside fun h => ?_
    obtain ⟨u, hu, -⟩ := exec_ldVxMem_of_inside (not_lt.1 h)
    exact ⟨_, hu⟩
  | drwVxVyNibble x y n =>
    refine abortsByTable_of_condition (fun _ => Iff.rfl) exec_drwVxVyNibble_of_outside fun h => ?_
    obtain ⟨c, hc, -⟩ := exec_drwVxVyNibble_of_inside (x := x) (not_not.1 h)
    exact ⟨_, hc⟩
  | ret =>
    cases hs : s.stack with
    | cons a rest => exact abortsByTable_of_next (exec_ret_of_cons hs) fun _ h => h
    | nil => exact abortsByTable_of_next (exec_ret_of_nil hs) fun _ h => h
  | ldVxK x =>
    cases hk : s.tickIn.key with
    | some k => exact abortsByTable_of_next (exec_ldVxK_of_key hk) fun _ h => h
    | none => exact abortsByTable_of_next (exec_ldVxK_of_no_key hk) fun _ h => h
  | _ => exact abortsByTable_of_next rfl fun _ h => h

/-! ## The sound timer is not read (rule R26) -/

/-- The outcome with its next state changed. -/
def mapNext (g : State → State) : Result → Result
  | .next t => .next (g t)
  | .fault f => .fault f
  | .refused r => .refused r

theorem outcomes_of_eq_mapNext {r r' : Result} {g : State → State} (h : r' = mapNext g r) :
    (∀ t, r = .next t → r' = .next (g t)) ∧ ∀ f, r = .fault f → r' = .fault f := by
  subst h
  refine ⟨?_, ?_⟩
  · rintro t rfl
    rfl
  · rintro f rfl
    rfl

section
variable (s : State) (b : Byte)

theorem skipWhen_setSt (c : Bool) : skipWhen c (s.setSt b) = mapNext (·.setSt b) (skipWhen c s) := by
  cases c <;> rfl

theorem orOutOfBounds_map_setSt (o : Option State) :
    orOutOfBounds (o.map (·.setSt b)) = mapNext (·.setSt b) (orOutOfBounds o) := by
  cases o <;> rfl

theorem State.loadRegs_setSt (i n : Nat) : (s.setSt b).loadRegs i n = (s.loadRegs i n).map (·.setSt b) := by
  induction n generalizing s i with
  | zero => rfl
  | succ n ih =>
    have hread : (s.setSt b).memRead ((s.setSt b).dataAddr i) = s.memRead (s.dataAddr i) := rfl
    simp only [State.loadRegs, hread]
    cases s.memRead (s.dataAddr i) with
    | some byte => exact ih (s.setV (Fin.ofNat 16 i) byte) (i + 1)
    | none => rfl

theorem drawRows_setSt (y0 x0 : Nat) (c : Canvas) (row n : Nat) :
    drawRows (s.setSt b) y0 x0 c row n = drawRows s y0 x0 c row n := by
  induction n generalizing c row with
  | zero => rfl
  | succ n ih =>
    have hread : (s.setSt b).memRead ((s.setSt b).dataAddr row) = s.memRead (s.dataAddr row) := rfl
    simp only [drawRows, hread, ih]

end

/-- Every instruction but FX18 commutes with a change of `st`. -/
theorem exec_setSt {i : Instr} (hi : ∀ x, i ≠ .ldSTVx x) (s : State) (b : Byte) :
    exec i (s.setSt b) = mapNext (·.setSt b) (exec i s) := by
  cases i with
  | ldSTVx x => exact absurd rfl (hi x)
  | seVxByte | sneVxByte | seVxVy | sneVxVy | skpVx | sknpVx =>
    exact skipWhen_setSt s b _
  | ret =>
    cases hs : s.stack with
    | cons a rest => rw [exec_ret_of_cons hs, exec_ret_of_cons (s := s.setSt b) hs]; rfl
    | nil => rw [exec_ret_of_nil hs, exec_ret_of_nil (s := s.setSt b) hs]; rfl
  | callAddr nnn =>
    by_cases h : s.sp = 1024
    · rw [exec_callAddr_of_full nnn h, exec_callAddr_of_full (s := s.setSt b) nnn h]; rfl
    · rw [exec_callAddr_of_room nnn h, exec_callAddr_of_room (s := s.setSt b) nnn h]; rfl
  | shrVxVy x y =>
    rw [exec_shrVxVy, exec_shrVxVy]; rfl
  | shlVxVy x y =>
    rw [exec_shlVxVy, exec_shlVxVy]; rfl
  | ldVxK x =>
    cases hk : s.tickIn.key with
    | some k => rw [exec_ldVxK_of_key hk, exec_ldVxK_of_key (s := s.setSt b) hk]; rfl
    | none => rw [exec_ldVxK_of_no_key hk, exec_ldVxK_of_no_key (s := s.setSt b) hk]; rfl
  | addIVx x =>
    by_cases h : s.cfg.indexOverflowFlag = true ∧ 0x0FFF < (s.I + zextByte (s.v x)).toNat
    · rw [exec_addIVx_of_overflow h, exec_addIVx_of_overflow (s := s.setSt b) h]; rfl
    · rw [exec_addIVx_of_no_overflow h, exec_addIVx_of_no_overflow (s := s.setSt b) h]; rfl
  | ldBVx x =>
    by_cases h : s.I.toNat + 2 ≤ 0xFFF
    · rw [exec_ldBVx_of_inside h, exec_ldBVx_of_inside (s := s.setSt b) h]; rfl
    · rw [exec_ldBVx_of_outside (not_le.1 h), exec_ldBVx_of_outside (s := s.setSt b) (not_le.1 h)]; rfl
  | ldMemVx x =>
    by_cases h : s.I.toNat + x.val ≤ 0xFFF
    · rw [exec_ldMemVx_of_inside h, exec_ldMemVx_of_inside (s := s.setSt b) h]; rfl
    · rw [exec_ldMemVx_of_outside (not_le.1 h), exec_ldMemVx_of_outside (s := s.setSt b) (not_le.1 h)]; rfl
  | ldVxMem x =>
    simp only [exec, execLdVxMem, State.loadRegs_setSt, ← orOutOfBounds_map_setSt, Option.map_map]
    rfl
  | drwVxVyNibble x y n =>
    simp only [exec, execDrwVxVyNibble, drawRows_setSt, ← orOutOfBounds_map_setSt, Option.map_map]
    rfl
  | _ => rfl

/-- Settles O32: changing `st` commutes with every instruction but FX18, which overwrites it. -/
theorem noInstructionReadsTheSoundTimer : Obligations.NoInstructionReadsTheSoundTimer := by
  intro i s b
  cases i with
  | ldSTVx x => exact outcomes_of_eq_mapNext (g := id) rfl
  | _ => exact outcomes_of_eq_mapNext (exec_setSt (by simp) s b)

end Sys2Proof.Machine
end

section
/-! The TICK of rules R120 to R128: the Timers in rationals, and what the state of a TICK's instruction keeps of
the state before the TICK. -/

namespace Sys2Proof.Claims

open Sys2Proof.Machine

theorem KeepsBut.erase {p : Part} {ps : List Part} {s t : State} (h : KeepsBut (p :: ps) s t)
    (hp : Part.Same s t p) : KeepsBut ps s t := by
  intro q hq
  by_cases hqp : q = p
  · exact hqp ▸ hp
  · exact h q (List.not_mem_cons_of_ne_of_not_mem hqp hq)

theorem encodedAtPc_congr {s t : State} (hpc : t.pc = s.pc) (hbyte : ∀ a, t.byteAt a = s.byteAt a) {i : Instr} :
    EncodedAtPc t i ↔ EncodedAtPc s i := by
  simp only [EncodedAtPc, hpc, hbyte]

end Sys2Proof.Claims

namespace Sys2Proof.Machine

open Sys2Proof.Claims

/-! ## The Timers -/

/-- Settles O36: the check of rule R244 is a comparison of rationals. -/
theorem timerFiresOnceAndDropsTheExcess : Obligations.TimerFiresOnceAndDropsTheExcess := fun p a d =>
  ⟨fun h => (timerCheck_eq p a d).trans (if_pos h), fun h => (timerCheck_eq p a d).trans (if_neg (not_le.2 h)),
    timerCheck_bounds⟩

section
variable {s : State} {d : Duration}

theorem State.tickT60_of_fire (h : 1 / 60 ≤ s.t60Acc + d) : s.tickT60 d = (s.setT60Acc 0).decrementTimers := by
  rw [State.tickT60_eq, if_pos h]

theorem State.tickT60_of_no_fire (h : s.t60Acc + d < 1 / 60) :
    s.tickT60 d = s.setT60Acc (s.t60Acc + d) := by
  rw [State.tickT60_eq, if_neg (not_le.2 h)]

end

theorem keepsBut_tickT60 (s : State) (d : Duration) : KeepsBut [.t60Acc, .dt, .st] s (s.tickT60 d) := by
  obtain h | h := le_or_gt (1 / 60) (s.t60Acc + d)
  · rw [State.tickT60_of_fire h]
    exact (keepsBut_setT60Acc s 0).trans ((keepsBut_setDt _ _).trans (keepsBut_setSt _ _))
  · rw [State.tickT60_of_no_fire h]
    exact (keepsBut_setT60Acc s _).mono (by decide)

/-- Settles O37: on a fire the accumulator is emptied and both counters count down, else the accumulator alone
grows. -/
theorem countersCountDownToZeroOncePerFire : Obligations.CountersCountDownToZeroOncePerFire := by
  refine fun s d => ⟨keepsBut_tickT60 s d, fun h => ?_, fun h => ?_⟩
  · rw [State.tickT60_of_fire h]
    exact ⟨rfl, countDown_toNat s.dt, countDown_toNat s.st⟩
  · rw [State.tickT60_of_no_fire h]
    exact ⟨rfl, rfl, rfl⟩

/-- Step 2 reads nothing but the accumulator and the two counters. -/
theorem State.tickT60_congr {s t : State} (hacc : t.t60Acc = s.t60Acc) (hdt : t.dt = s.dt) (hst : t.st = s.st)
    (d : Duration) : (t.tickT60 d).t60Acc = (s.tickT60 d).t60Acc ∧ (t.tickT60 d).dt = (s.tickT60 d).dt ∧
      (t.tickT60 d).st = (s.tickT60 d).st := by
  obtain h | h := le_or_gt (1 / 60) (s.t60Acc + d)
  · rw [State.tickT60_of_fire h, State.tickT60_of_fire (by rwa [hacc])]
    exact ⟨rfl, congrArg countDown hdt, congrArg countDown hst⟩
  · rw [State.tickT60_of_no_fire h, State.tickT60_of_no_fire (by rwa [hacc])]
    exact ⟨congrArg (· + d) hacc, hdt, hst⟩

/-! ## A TICK as a step -/

/-- The state after steps 1 and 2 of a TICK, and `TCPU.acc` as step 3 leaves it. -/
def State.afterTimers (s : State) (d : Duration) (e : Byte) (acc : Duration) : State :=
  ((s.captureLatch e).tickT60 d).setTcpuAcc acc

section
variable (s : State) (d : Duration) (e : Byte) (acc : Duration)

theorem keepsBut_captureLatch : KeepsBut [.tickIn, .latch, .response] s (s.captureLatch e) :=
  (keepsBut_setTickIn s _).trans ((keepsBut_setLatch _ _).trans (keepsBut_setResponse _ _))

theorem keepsBut_afterTimers :
    KeepsBut [.tickIn, .latch, .response, .t60Acc, .dt, .st, .tcpuAcc] s (s.afterTimers d e acc) :=
  (keepsBut_captureLatch s e).trans ((keepsBut_tickT60 _ d).trans (keepsBut_setTcpuAcc _ acc))

@[simp] theorem State.afterTimers_tickIn : (s.afterTimers d e acc).tickIn = ⟨s.latch, e⟩ :=
  keepsBut_tickT60 (s.captureLatch e) d .tickIn (by decide)

@[simp] theorem State.afterTimers_latch : (s.afterTimers d e acc).latch = none :=
  keepsBut_tickT60 (s.captureLatch e) d .latch (by decide)

@[simp] theorem State.afterTimers_response : (s.afterTimers d e acc).response = .ok :=
  keepsBut_tickT60 (s.captureLatch e) d .response (by decide)

end

theorem executeState_eq (s : State) (d : Duration) (e : Byte) :
    executeState s d e = (s.afterTimers d e 0).setPc (s.pc + 2) := by
  have hpc : (s.afterTimers d e 0).pc = s.pc := keepsBut_afterTimers s d e 0 .pc (by decide)
  rw [← hpc]
  rfl

section
variable {s s' : State} {d : Duration} {e : Byte}

theorem keepsBut_of_nextIsTick (h : NextIsTick s s' d e) : KeepsBut [.schedule] s s' :=
  keepsBut_of_takeTransaction h.1

theorem keepsBut_afterTimers_of_nextIsTick (h : NextIsTick s s' d e) (acc : Duration) :
    KeepsBut [.schedule, .tickIn, .latch, .response, .t60Acc, .dt, .st, .tcpuAcc] s (s'.afterTimers d e acc) :=
  (keepsBut_of_nextIsTick h).trans (keepsBut_afterTimers s' d e acc)

theorem step_of_nextIsTick (h : NextIsTick s s' d e) :
    step s = if 1 / (s.cfg.ips : Rat) ≤ s.tcpuAcc + d then endTick (instructionCycle (s'.afterTimers d e 0))
      else .next ((s'.afterTimers d e (s.tcpuAcc + d)).setTickIn .idle) := by
  have hcfg : s'.cfg = s.cfg := keepsBut_of_nextIsTick h .cfg (by decide)
  have hacc : s'.tcpuAcc = s.tcpuAcc := keepsBut_of_nextIsTick h .tcpuAcc (by decide)
  rw [step_of_takeTransaction h.1, transact, runTick_eq s' e h.2, hcfg, hacc]
  rfl

theorem step_of_fire (h : NextIsTick s s' d e) (hfire : CpuFires s d) :
    step s = endTick (instructionCycle (s'.afterTimers d e 0)) :=
  (step_of_nextIsTick h).trans (if_pos hfire)

theorem step_of_no_fire (h : NextIsTick s s' d e) (hfire : ¬CpuFires s d) :
    step s = .next ((s'.afterTimers d e (s.tcpuAcc + d)).setTickIn .idle) :=
  (step_of_nextIsTick h).trans (if_neg hfire)

end

/-- Settles O39: steps 1 and 2 are those of the state before the TICK, as the schedule does not enter them, and
step 3 only adds to the accumulator. -/
theorem tickWithoutAFireExecutesNothing : Obligations.TickWithoutAFireExecutesNothing := by
  intro s s' d e h hfire
  have hs := keepsBut_of_nextIsTick h
  obtain ⟨hacc, hdt, hst⟩ := State.tickT60_congr (s := s) (t := s'.captureLatch e) (hs .t60Acc (by decide))
    (hs .dt (by decide)) (hs .st (by decide)) d
  have hkeeps := keepsBut_afterTimers s' d e (s.tcpuAcc + d)
  exact ⟨_, step_of_no_fire h hfire, rfl, s'.afterTimers_latch d e (s.tcpuAcc + d),
    s'.afterTimers_response d e (s.tcpuAcc + d), hacc, hdt, hst, hkeeps .schedule (by decide), rfl,
    ((keepsBut_afterTimers_of_nextIsTick h _).trans (keepsBut_setTickIn _ _)).mono (by decide)⟩

/-! ## The instruction of a TICK -/

section
variable {s s' : State} {d : Duration} {e : Byte}

theorem keepsBut_executeState (h : NextIsTick s s' d e) :
    KeepsBut [.schedule, .tickIn, .latch, .response, .t60Acc, .dt, .st, .tcpuAcc, .pc] s
      (executeState s' d e) := by
  rw [executeState_eq]
  exact (keepsBut_afterTimers_of_nextIsTick h 0).trans (keepsBut_setPc _ _)

theorem executeState_pc (h : NextIsTick s s' d e) : (executeState s' d e).pc = s.pc + 2 := by
  have hpc : s'.pc = s.pc := keepsBut_of_nextIsTick h .pc (by decide)
  rw [executeState_eq, State.setPc_pc, hpc]

theorem executeState_key (h : NextIsTick s s' d e) : (executeState s' d e).tickIn.key = s.latch := by
  have hlatch : s'.latch = s.latch := keepsBut_of_nextIsTick h .latch (by decide)
  rw [executeState_eq, State.setPc_tickIn, State.afterTimers_tickIn, hlatch]

@[simp] theorem executeState_latch : (executeState s' d e).latch = none := by
  rw [executeState_eq, State.setPc_latch, State.afterTimers_latch]

@[simp] theorem executeState_response : (executeState s' d e).response = .ok := by
  rw [executeState_eq, State.setPc_response, State.afterTimers_response]

/-- Where the CPU Timer fires, the cycle fetches the word at the `pc` before the TICK. -/
theorem step_of_fire_eq (h : NextIsTick s s' d e) (hfire : CpuFires s d) :
    step s = if s.pc.toNat + 1 < memSize then
      endTick (dispatch (wordOfBytes (s.byteAt s.pc.toNat) (s.byteAt (s.pc.toNat + 1))) (executeState s' d e))
      else .fault .outOfBounds := by
  have hkeeps := keepsBut_afterTimers_of_nextIsTick h 0
  have hpc : (s'.afterTimers d e 0).pc = s.pc := hkeeps .pc (by decide)
  have hpc' : s'.pc = s.pc := keepsBut_of_nextIsTick h .pc (by decide)
  have hbyte : ∀ a, (s'.afterTimers d e 0).byteAt a = s.byteAt a := hkeeps .mem (by decide)
  rw [step_of_fire h hfire, instructionCycle_eq, executeState_eq]
  simp only [hpc, hpc', hbyte, apply_ite endTick]
  rfl

end

/-- Settles O40: the fetch and the decoding are of the bytes before the TICK. -/
theorem stepRunsTheDecodedInstruction : Obligations.StepRunsTheDecodedInstruction := by
  intro s s' d e i h hfire henc
  rw [step_of_fire_eq h hfire, if_pos (show _ < memSize from Nat.lt_succ_of_le henc.1),
    dispatch_of_decode henc.2]

/-- Settles O41: the fetch is at the `pc` before the TICK. -/
theorem fetchAboveMemoryAborts : Obligations.FetchAboveMemoryAborts := by
  intro s s' d e h hfire hout
  rw [step_of_fire_eq h hfire, if_neg (not_lt.2 hout)]

/-! ## What the instruction cycle can do -/

/-- The parts of the state that an instruction or a fault of the CORE can write. -/
def cycleParts : List Part := [.mem, .V, .I, .pc, .stack, .dt, .st, .fb, .draws, .response]

theorem writesParts_subset_cycleParts (i : Instr) : writesParts i ⊆ cycleParts := by
  cases i <;> simp [writesParts, cycleParts]

/-- A dispatch that answers a next state ran the decoded instruction, or raised `InvalidInstruction`. -/
theorem dispatch_eq_next {w : Word} {s t : State} (h : dispatch w s = .next t) :
    (∃ i, decode w = some i ∧ exec i s = .next t) ∨
      decode w = none ∧ t = s.setResponse (.fault ⟨.invalidInstruction, s.opc, n0 w, n1 w, n2 w, n3 w⟩) := by
  cases hw : decode w with
  | some i => exact Or.inl ⟨i, rfl, (dispatch_of_decode hw s).symm.trans h⟩
  | none => exact Or.inr ⟨rfl, (Host.Outcome.next.inj ((dispatch_of_illegal hw s).symm.trans h)).symm⟩

theorem keepsBut_of_dispatch {w : Word} {s t : State} (h : dispatch w s = .next t) : KeepsBut cycleParts s t := by
  obtain ⟨i, -, hexec⟩ | ⟨-, rfl⟩ := dispatch_eq_next h
  · exact (instructionsWriteOnlyTheirState i s t hexec).1.mono (writesParts_subset_cycleParts i)
  · exact (keepsBut_setResponse s _).mono (by decide)

section
variable {s s' t : State} {d : Duration} {e : Byte}

/-- What a step of a TICK can do: nothing but the Timers, or the dispatch of the word at `pc`. -/
theorem step_tick_eq_next (h : NextIsTick s s' d e) (ht : step s = .next t) :
    (¬CpuFires s d ∧ t = (s'.afterTimers d e (s.tcpuAcc + d)).setTickIn .idle) ∨
      CpuFires s d ∧ s.pc.toNat + 1 < memSize ∧ ∃ u,
        dispatch (wordOfBytes (s.byteAt s.pc.toNat) (s.byteAt (s.pc.toNat + 1))) (executeState s' d e) = .next u ∧
          t = u.setTickIn .idle := by
  by_cases hfire : CpuFires s d
  · rw [step_of_fire_eq h hfire] at ht
    split at ht
    · next hin => exact Or.inr ⟨hfire, hin, endTick_eq_next.1 ht⟩
    · cases ht
  · rw [step_of_no_fire h hfire] at ht
    exact Or.inl ⟨hfire, (Host.Outcome.next.inj ht).symm⟩

end

/-- Settles O38: step 1 moves the latch to the captured key, and neither the Timers nor an instruction write the
latch. -/
theorem everyTickConsumesTheLatch : Obligations.EveryTickConsumesTheLatch := by
  refine fun s s' d e h => ⟨executeState_key h, executeState_latch, fun t ht => ?_⟩
  obtain ⟨-, rfl⟩ | ⟨-, -, u, hu, rfl⟩ := step_tick_eq_next h ht
  · exact s'.afterTimers_latch d e (s.tcpuAcc + d)
  · exact Eq.trans (keepsBut_of_dispatch hu .latch (by decide)) executeState_latch

end Sys2Proof.Machine
end

section
/-! The key wait of rule R212 over several steps: a press goes through the latch to the next TICK only. -/

namespace Sys2Proof.Machine

open Sys2Proof.Claims

theorem takeTransaction_of_schedule {s : State} {a : Transaction} {rest : List Transaction}
    (h : s.schedule = a :: rest) : s.takeTransaction = (a, s.setSchedule rest) := by
  simp only [State.takeTransaction, h]

theorem nextIsTick_of_schedule {s : State} {d : Duration} {e : Byte} {rest : List Transaction}
    (h : s.schedule = .tick d e :: rest) (hd : 0 ≤ d) : NextIsTick s (s.setSchedule rest) d e :=
  ⟨takeTransaction_of_schedule h, hd⟩

/-! ## The transactions of the keypad -/

/-- The state a PRESS of `k` leaves (rule R253). -/
def State.pressed (s : State) (k : Key) : State :=
  ((s.setKeys (s.keys.set k.val true k.isLt)).setLatch (some k)).setResponse .none

/-- The state a RELEASE of `k` leaves (rule R254). -/
def State.released (s : State) (k : Key) : State :=
  (s.setKeys (s.keys.set k.val false k.isLt)).setResponse .none

theorem transact_press (k : Key) (s : State) : transact (.press k) s = .next (s.pressed k) := rfl

theorem transact_release (k : Key) (s : State) : transact (.release k) s = .next (s.released k) := rfl

section
variable (s : State) (k : Key)

theorem keepsBut_pressed : KeepsBut [.keys, .latch, .response] s (s.pressed k) :=
  (keepsBut_setKeys s _).trans ((keepsBut_setLatch _ _).trans (keepsBut_setResponse _ _))

theorem keepsBut_released : KeepsBut [.keys, .response] s (s.released k) :=
  (keepsBut_setKeys s _).trans (keepsBut_setResponse _ _)

theorem State.keys_pressed_self : (s.pressed k).keys[k.val] = true := Vector.getElem_set_self k.isLt

end

section
variable {s s' : State} {k : Key}

theorem keys_set_of_ne (keys : Vector Bool 16) (b : Bool) {q : Key} (hq : q ≠ k) :
    (keys.set k.val b k.isLt)[q.val] = keys[q.val] :=
  Vector.getElem_set_ne k.isLt q.isLt fun h => hq (Fin.ext h.symm)

theorem step_of_press (h : s.takeTransaction = (.press k, s')) : step s = .next (s'.pressed k) :=
  (step_of_takeTransaction h).trans (transact_press k s')

theorem keepsBut_of_press (h : s.takeTransaction = (.press k, s')) :
    KeepsBut [.schedule, .keys, .latch, .response] s (s'.pressed k) :=
  (keepsBut_of_takeTransaction h).trans (keepsBut_pressed s' k)

end

/-- Settles O45: both set the one key, PRESS the latch too. -/
theorem pressAndReleaseChangeTheKeyState : Obligations.PressAndReleaseChangeTheKeyState := by
  refine fun s s' k => ⟨fun h => ?_, fun h => ?_⟩
  · have hkeys : s'.keys = s.keys := keepsBut_of_takeTransaction h .keys (by decide)
    exact ⟨_, step_of_press h, s'.keys_pressed_self k, rfl, rfl,
      fun q hq => hkeys ▸ keys_set_of_ne s'.keys true hq, rfl, (keepsBut_of_press h).mono (by decide)⟩
  · have hkeys : s'.keys = s.keys := keepsBut_of_takeTransaction h .keys (by decide)
    exact ⟨_, (step_of_takeTransaction h).trans (transact_release k s'), Vector.getElem_set_self k.isLt, rfl,
      fun q hq => hkeys ▸ keys_set_of_ne s'.keys false hq, rfl,
      ((keepsBut_of_takeTransaction h).trans (keepsBut_released s' k)).mono (by decide)⟩

/-! ## One TICK at a key wait -/

section
variable {s s' : State} {d : Duration} {e : Byte} {x : RegNum} (h : NextIsTick s s' d e)
  (hfire : CpuFires s d) (henc : EncodedAtPc s (.ldVxK x))
include h hfire henc

theorem step_keyWait_of_latch {k : Key} (hlatch : s.latch = some k) :
    ∃ u, step s = .next u ∧ (u.v x).toNat = k.val ∧ u.pc = s.pc + 2 ∧ u.latch = none ∧ u.keys = s.keys ∧
      u.response = .ok := by
  have hexec := exec_ldVxK_of_key (x := x) ((executeState_key h).trans hlatch)
  refine ⟨((executeState s' d e).setV x (zextKey k)).setTickIn .idle, ?_, ?_, executeState_pc h,
    executeState_latch, keepsBut_executeState h .keys (by decide), executeState_response⟩
  · rw [stepRunsTheDecodedInstruction s s' d e _ h hfire henc, hexec]
    rfl
  · rw [State.setTickIn_v, State.v_setV_self, zextKey_toNat]

theorem step_keyWait_of_no_latch (hlatch : s.latch = none) :
    ∃ u, step s = .next u ∧ u.pc = s.pc ∧ (∀ r, u.v r = s.v r) ∧ u.keys = s.keys ∧ u.response = .ok := by
  have hexec := exec_ldVxK_of_no_key (x := x) ((executeState_key h).trans hlatch)
  have hopc : (executeState s' d e).opc = s.pc := by
    rw [State.opc, executeState_pc h]
    exact BitVec.add_sub_cancel s.pc 2
  refine ⟨((executeState s' d e).setPc (executeState s' d e).opc).setTickIn .idle, ?_, hopc,
    keepsBut_executeState h .V (by decide), keepsBut_executeState h .keys (by decide), executeState_response⟩
  rw [stepRunsTheDecodedInstruction s s' d e _ h hfire henc, hexec]
  rfl

end

/-- Settles O43: the PRESS fills the latch, the TICK after it captures it; without a press the latch is empty. -/
theorem pressReachesTheKeyWaitOfTheNextTick : Obligations.PressReachesTheKeyWaitOfTheNextTick := by
  refine fun s k d e rest x hd hfire henc => ⟨fun hsched => ?_, fun hsched hlatch => ?_⟩
  · have htake := takeTransaction_of_schedule hsched
    have hkeeps := keepsBut_of_press htake
    set t := (s.setSchedule (.tick d e :: rest)).pressed k
    have htick : NextIsTick t (t.setSchedule rest) d e := nextIsTick_of_schedule rfl hd
    obtain ⟨u, hu, hv, hpc, hlatch, hkeys, hresponse⟩ := step_keyWait_of_latch htick hfire
      ((encodedAtPc_congr (hkeeps .pc (by decide)) (hkeeps .mem (by decide))).2 henc) rfl
    exact ⟨t, u, step_of_press htake, hu, hv, hpc, hlatch, by rw [hkeys, State.keys_pressed_self], hresponse⟩
  · obtain ⟨u, hu, hpc, hv, -, hresponse⟩ :=
      step_keyWait_of_no_latch (nextIsTick_of_schedule hsched hd) hfire henc hlatch
    exact ⟨u, hu, hpc, hv, hresponse⟩

/-- Settles O44: the TICK that does not fire empties the latch, so the key wait of the next one finds no key. -/
theorem stalePressIsLostToTheKeyWait : Obligations.StalePressIsLostToTheKeyWait := by
  intro s k d0 d e0 e rest x hsched hd0 hd hnofire hfire henc
  have htake := takeTransaction_of_schedule hsched
  have hpress := keepsBut_of_press htake
  set t := (s.setSchedule (.tick d0 e0 :: .tick d e :: rest)).pressed k
  have htick : NextIsTick t (t.setSchedule (.tick d e :: rest)) d0 e0 := nextIsTick_of_schedule rfl hd0
  obtain ⟨u, hu, hacc, hlatch, -, -, -, -, hsched', -, hidle⟩ :=
    tickWithoutAFireExecutesNothing t _ d0 e0 htick hnofire
  have hpc : u.pc = s.pc := Eq.trans (hidle .pc (by decide)) (hpress .pc (by decide))
  have hbyte : ∀ a, u.byteAt a = s.byteAt a := fun a =>
    (hidle .mem (by decide) a).trans (hpress .mem (by decide) a)
  have hfire' : CpuFires u d := by
    have hcfg : u.cfg = s.cfg := Eq.trans (hidle .cfg (by decide)) (hpress .cfg (by decide))
    rw [CpuFires, hcfg, hacc]
    exact hfire
  obtain ⟨z, hz, hzpc, hzv, hzkeys, -⟩ := step_keyWait_of_no_latch (nextIsTick_of_schedule hsched' hd) hfire'
    ((encodedAtPc_congr hpc hbyte).2 henc) hlatch
  refine ⟨t, u, z, step_of_press htake, hu, hz, hzpc.trans hpc, fun r => ?_, ?_⟩
  · rw [hzv, hidle .V (by decide), hpress .V (by decide)]
  · have hkeys : u.keys = t.keys := hidle .keys (by decide)
    rw [hzkeys, hkeys, State.keys_pressed_self]

end Sys2Proof.Machine
end

section
/-! The host's transactions of rules R250 to R258: RESET and LOAD, what each transaction leaves unchanged, and
which steps are refused. -/

namespace Sys2Proof.Machine

open Sys2Proof.Claims

/-! ## The reset contents of memory -/

theorem resetByte_font (c : Configuration) {k : Nat} (hk : k < 80) :
    resetByte c (c.fontStart.toNat + k) = c.fontBitmap[k] := by
  rw [resetByte, dif_pos ⟨Nat.le_add_right _ _, Nat.add_lt_add_left hk _⟩]
  simp only [Nat.add_sub_cancel_left]

theorem resetByte_outside (c : Configuration) {a : Nat}
    (h : a < c.fontStart.toNat ∨ c.fontStart.toNat + 80 ≤ a) : resetByte c a = 0 :=
  dif_neg (by omega)

section
variable (c : Configuration)

/-- The values of rule R39 that an accessor reads. -/
theorem State.resetWith_v (r : RegNum) : (State.resetWith c).v r = 0 := Vector.getElem_replicate r.isLt

theorem State.resetWith_key (k : Key) : (State.resetWith c).keys[k.val] = false := Vector.getElem_replicate k.isLt

end

/-! ## RESET and LOAD -/

/-- The state RESET leaves: the CORE's reset values, and what stands outside the CORE (rule R251). -/
def State.afterReset (s : State) (c : Configuration) : State :=
  { State.resetWith c with draws := s.draws, schedule := s.schedule, idleDelta := s.idleDelta }

/-- The state a LOAD leaves (rule R252). -/
def State.loaded (s : State) (bytes : List Byte) : State :=
  (s.setMem (s.mem.putAll s.cfg s.cfg.programStart.toNat bytes)).setResponse .none

theorem loadFits_iff {c : Configuration} {bytes : List Byte} :
    loadFits c bytes = true ↔ c.programStart.toNat + bytes.length ≤ 4096 := decide_eq_true_iff

section
variable (s : State) {c : Configuration} {bytes : List Byte}

theorem transact_reset_of_legal (h : c.legal = true) : transact (.reset c) s = .next (s.afterReset c) :=
  if_pos h

theorem transact_reset_of_illegal (h : c.legal = false) :
    transact (.reset c) s = .refused .illegalConfiguration :=
  if_neg (by simp [h])

theorem transact_load_of_fits (h : s.cfg.programStart.toNat + bytes.length ≤ 4096) :
    transact (.load bytes) s = .next (s.loaded bytes) :=
  if_pos (loadFits_iff.2 h)

theorem transact_load_of_too_long (h : 4096 < s.cfg.programStart.toNat + bytes.length) :
    transact (.load bytes) s = .refused .loadTooLong :=
  if_neg (mt loadFits_iff.1 (not_le.2 h))

theorem transact_tick_of_negative {d : Duration} (h : d < 0) (e : Byte) :
    transact (.tick d e) s = .refused .negativeDelta :=
  if_neg (by rw [deltaLegal_iff]; exact not_le.2 h)

theorem keepsBut_loaded (bytes : List Byte) : KeepsBut [.mem, .response] s (s.loaded bytes) :=
  (keepsBut_setMem s _).trans (keepsBut_setResponse _ _)

theorem transact_reset_eq_next {t : State} (h : transact (.reset c) s = .next t) :
    c.legal = true ∧ t = s.afterReset c := by
  cases hc : c.legal with
  | true => exact ⟨rfl, (Host.Outcome.next.inj ((transact_reset_of_legal s hc).symm.trans h)).symm⟩
  | false => cases (transact_reset_of_illegal s hc).symm.trans h

theorem transact_load_eq_next {t : State} (h : transact (.load bytes) s = .next t) :
    s.cfg.programStart.toNat + bytes.length ≤ 4096 ∧ t = s.loaded bytes := by
  obtain hfits | hlong := le_or_gt (s.cfg.programStart.toNat + bytes.length) 4096
  · exact ⟨hfits, (Host.Outcome.next.inj ((transact_load_of_fits s hfits).symm.trans h)).symm⟩
  · cases (transact_load_of_too_long s hlong).symm.trans h

end

/-- Settles O46: the program is a run of bytes written to the memory before the LOAD. -/
theorem loadCopiesTheProgram : Obligations.LoadCopiesTheProgram := by
  intro s s' bytes hw h
  have hs' := eq_setSchedule_of_takeTransaction h
  have hcfg : s'.cfg = s.cfg := by rw [hs', State.setSchedule_cfg]
  have hw' : s'.mem.wf s'.cfg = true := by rwa [hs']
  have hbyte : ∀ a, s'.byteAt a = s.byteAt a := keepsBut_of_takeTransaction h .mem (by decide)
  refine ⟨fun hlen hstart => ?_, fun hlong => ?_⟩
  · have hfits : s'.cfg.programStart.toNat + bytes.length ≤ memSize := by
      rw [hcfg, memSize]
      omega
    refine ⟨_, (step_of_takeTransaction h).trans (transact_load_of_fits s' hfits), fun k hk => ?_,
      fun a ha => ?_, rfl, rfl,
      ((keepsBut_of_takeTransaction h).trans (keepsBut_loaded s' bytes)).mono (by decide)⟩
    · rw [← hcfg]
      exact State.byteAt_putAll_inside hw' hfits hk
    · rw [← hcfg] at ha
      exact (State.byteAt_putAll_outside hw' hfits ha).trans (hbyte a)
  · exact (step_of_takeTransaction h).trans (transact_load_of_too_long s' (hcfg ▸ hlong))

/-- Settles O47: RESET answers the reset state of its Configuration, whose memory lists nothing. -/
theorem resetGivesEveryElementItsValue : Obligations.ResetGivesEveryElementItsValue := by
  refine fun s s' c h => ⟨fun hlegal => ?_,
    fun hillegal => (step_of_takeTransaction h).trans (transact_reset_of_illegal s' hillegal)⟩
  have hs := keepsBut_of_takeTransaction h
  exact ⟨_, (step_of_takeTransaction h).trans (transact_reset_of_legal s' hlegal), rfl, rfl,
    fun k hk => resetByte_font c hk, fun a ha => resetByte_outside c ha, rfl, rfl, State.resetWith_v c, rfl, rfl,
    rfl, rfl, pixel_clear, State.resetWith_key c, rfl, rfl, hs .draws (by decide), hs .idleDelta (by decide)⟩

/-- Settles O51: the state is the reset state of the default Configuration, whose font is at 0x050. -/
theorem resetStateHasTheListedValues : Obligations.ResetStateHasTheListedValues :=
  ⟨rfl, rfl, rfl, rfl, rfl, rfl, fun _ hk => resetByte_font .default hk, by decide,
    fun _ ha => resetByte_outside .default ha, State.resetWith_v _, rfl, rfl, rfl, rfl, pixel_clear,
    State.resetWith_key _, rfl, rfl, rfl, rfl⟩

/-! ## What a transaction leaves unchanged -/

/-- The parts of the state a TICK can change (rules R120 to R128). -/
def tickParts : List Part :=
  [.schedule, .mem, .V, .I, .pc, .stack, .dt, .st, .fb, .latch, .t60Acc, .tcpuAcc, .tickIn, .draws, .response]

/-- The parts of the state a transaction can change (rules R250 to R257). -/
def changedParts : Transaction → List Part
  | .reset _ => [.mem, .V, .I, .pc, .stack, .dt, .st, .fb, .keys, .latch, .t60Acc, .tcpuAcc, .cfg, .tickIn,
      .schedule, .response]
  | .load _ => [.schedule, .mem, .response]
  | .press _ => [.schedule, .keys, .latch, .response]
  | .release _ => [.schedule, .keys, .response]
  | .tick _ _ => tickParts
  | .sound => [.schedule, .response]
  | .fb => [.schedule, .response]

theorem keepsBut_afterReset (s : State) (c : Configuration) :
    KeepsBut (changedParts (.reset c)) s (s.afterReset c) := by
  intro p hp
  cases p with
  | draws | schedule | idleDelta => rfl
  | _ => exact absurd hp (by simp [changedParts])

section
variable {s s' t : State} {d : Duration} {e : Byte}

theorem nextIsTick_of_step_eq_next (h : s.takeTransaction = (.tick d e, s')) (ht : step s = .next t) :
    NextIsTick s s' d e := by
  refine ⟨h, not_lt.1 fun hneg => ?_⟩
  cases ((step_of_takeTransaction h).trans (transact_tick_of_negative s' hneg e)).symm.trans ht

theorem keepsBut_of_tick (h : NextIsTick s s' d e) (ht : step s = .next t) :
    KeepsBut tickParts s t := by
  obtain ⟨-, rfl⟩ | ⟨-, -, u, hu, rfl⟩ := step_tick_eq_next h ht
  · exact ((keepsBut_afterTimers_of_nextIsTick h _).trans (keepsBut_setTickIn _ _)).mono (by decide)
  · exact ((keepsBut_executeState h).trans ((keepsBut_of_dispatch hu).trans (keepsBut_setTickIn _ _))).mono
      (by decide)

/-- What a step changes is in its transaction's list. -/
theorem keepsBut_of_step {a : Transaction} (h : s.takeTransaction = (a, s')) (ht : step s = .next t) :
    KeepsBut (changedParts a) s t := by
  have hs := keepsBut_of_takeTransaction h
  have htransact := (step_of_takeTransaction h).symm.trans ht
  cases a with
  | reset c =>
    obtain ⟨-, rfl⟩ := transact_reset_eq_next s' htransact
    exact (hs.trans (keepsBut_afterReset s' c)).mono (by simp [changedParts])
  | load bytes =>
    obtain ⟨-, rfl⟩ := transact_load_eq_next s' htransact
    exact hs.trans (keepsBut_loaded s' bytes)
  | press k =>
    obtain rfl := Host.Outcome.next.inj htransact
    exact hs.trans (keepsBut_pressed s' k)
  | release k =>
    obtain rfl := Host.Outcome.next.inj htransact
    exact hs.trans (keepsBut_released s' k)
  | tick d e => exact keepsBut_of_tick (nextIsTick_of_step_eq_next h ht) ht
  | sound | fb =>
    obtain rfl := Host.Outcome.next.inj htransact
    exact hs.trans (keepsBut_setResponse s' _)

end

/-- Settles O49: the Configuration is in the list of RESET alone, the keys are in those of RESET, PRESS and
RELEASE. -/
theorem onlyTheHostChangesConfigurationAndKeys : Obligations.OnlyTheHostChangesConfigurationAndKeys := by
  intro s t ht
  have hkeeps := keepsBut_of_step (a := s.takeTransaction.1) rfl ht
  refine ⟨fun hcfg => ?_, fun hkeys => ?_⟩
  · cases ha : s.takeTransaction.1 with
    | reset c => exact ⟨c, rfl⟩
    | _ => exact absurd (hkeeps .cfg (by simp [ha, changedParts, tickParts])) hcfg
  · cases ha : s.takeTransaction.1 with
    | reset c => exact Or.inl ⟨c, rfl⟩
    | press k => exact Or.inr (Or.inl ⟨k, rfl⟩)
    | release k => exact Or.inr (Or.inr ⟨k, rfl⟩)
    | _ => exact absurd (hkeeps .keys (by simp [ha, changedParts, tickParts])) hkeys

/-- Settles O13: the count is in the list of a TICK alone, there only a dispatched instruction changes it, and
of the instructions only CXNN. -/
theorem stepDrawsOnlyForRandom : Obligations.StepDrawsOnlyForRandom := by
  intro s t ht hdraws
  obtain ⟨a, s', h⟩ : ∃ a s', s.takeTransaction = (a, s') := ⟨_, _, rfl⟩
  have hkeeps := keepsBut_of_step h ht
  cases a with
  | tick d e =>
    have htick := nextIsTick_of_step_eq_next h ht
    have hbefore : (executeState s' d e).draws = s.draws := keepsBut_executeState htick .draws (by decide)
    obtain ⟨-, rfl⟩ | ⟨-, hin, u, hu, rfl⟩ := step_tick_eq_next htick ht
    · exact absurd (keepsBut_afterTimers_of_nextIsTick htick (s.tcpuAcc + d) .draws (by decide)) hdraws
    · obtain ⟨i, hi, hexec⟩ | ⟨-, rfl⟩ := dispatch_eq_next hu
      · cases i with
        | rndVxByte x nn =>
          obtain rfl := Host.Outcome.next.inj hexec
          exact ⟨congrArg (· + 1) hbefore, x, nn, Nat.le_of_lt_succ hin, hi⟩
        | _ => exact absurd ((randomMasksExactlyOneDraw.2 _ _ _ hexec (by simp)).trans hbefore) hdraws
      · exact absurd hbefore hdraws
  | _ => exact absurd (hkeeps .draws (by simp [changedParts])) hdraws

/-! ## Refused transactions -/

/-- The outcome is a refusal exactly where the duty is broken, and never for want of a meaning. -/
def RefusedExactlyIf (broken : Prop) (r : Result) : Prop :=
  ((∃ q, r = .refused q) ↔ broken) ∧ ∀ m, r ≠ .refused (.notModelled m)

section
variable {r : Result} {broken : Prop}

theorem refusedExactlyIf_of_never (h : ∀ q, r ≠ .refused q) (hkept : ¬broken) : RefusedExactlyIf broken r :=
  ⟨iff_of_false (fun ⟨q, hq⟩ => h q hq) hkept, fun m => h (.notModelled m)⟩

theorem refusedExactlyIf_of_next {t : State} (h : r = .next t) (hkept : ¬broken) : RefusedExactlyIf broken r :=
  refusedExactlyIf_of_never (by simp [h]) hkept

theorem refusedExactlyIf_of_refused {q : Refusal} (h : r = .refused q) (hq : ∀ m, q ≠ .notModelled m)
    (hbroken : broken) : RefusedExactlyIf broken r :=
  ⟨iff_of_true ⟨q, h⟩ hbroken, fun m => by simpa [h] using hq m⟩

end

theorem dispatch_ne_refused (w : Word) (s : State) (q : Refusal) : dispatch w s ≠ .refused q := by
  cases hw : decode w with
  | some i =>
    rw [dispatch_of_decode hw]
    exact (instructionsAbortExactlyOutOfBoundsOrOnAFullStack i s).2.1 q
  | none =>
    rw [dispatch_of_illegal hw, raiseFault]
    simp

theorem endTick_eq_refused {r : Result} {q : Refusal} (h : endTick r = .refused q) : r = .refused q := by
  cases r with
  | refused => exact h
  | next | fault => cases h

theorem step_tick_ne_refused {s s' : State} {d : Duration} {e : Byte} (h : NextIsTick s s' d e) (q : Refusal) :
    step s ≠ .refused q := by
  by_cases hfire : CpuFires s d
  · rw [step_of_fire_eq h hfire]
    split
    · exact fun hq => dispatch_ne_refused _ _ q (endTick_eq_refused hq)
    · simp
  · rw [step_of_no_fire h hfire]
    simp

/-- Settles O50: RESET, LOAD and TICK test their one duty; within it, and in all other transactions, no outcome is
a refusal. -/
theorem stepRefusesExactlyBrokenHostDuties : Obligations.StepRefusesExactlyBrokenHostDuties := by
  intro s
  obtain ⟨a, s', h⟩ : ∃ a s', s.takeTransaction = (a, s') := ⟨_, _, rfl⟩
  have hstep := step_of_takeTransaction h
  have hcfg : s'.cfg = s.cfg := keepsBut_of_takeTransaction h .cfg (by decide)
  change RefusedExactlyIf (BreaksDuty s.cfg s.takeTransaction.1) (step s)
  rw [h]
  cases a with
  | reset c =>
    cases hc : c.legal with
    | true =>
      exact refusedExactlyIf_of_next (hstep.trans (transact_reset_of_legal s' hc)) (not_not.2 ((legal_iff c).1 hc))
    | false =>
      exact refusedExactlyIf_of_refused (hstep.trans (transact_reset_of_illegal s' hc)) (by simp)
        fun hlegal => by simp [(legal_iff c).2 hlegal] at hc
  | load bytes =>
    obtain hfits | hlong := le_or_gt (s'.cfg.programStart.toNat + bytes.length) 4096
    · exact refusedExactlyIf_of_next (hstep.trans (transact_load_of_fits s' hfits)) (not_lt.2 (hcfg ▸ hfits))
    · exact refusedExactlyIf_of_refused (hstep.trans (transact_load_of_too_long s' hlong)) (by simp)
        (show 4096 < _ from hcfg ▸ hlong)
  | tick d e =>
    obtain hd | hneg := le_or_gt 0 d
    · exact refusedExactlyIf_of_never (step_tick_ne_refused ⟨h, hd⟩) (not_lt.2 hd)
    · exact refusedExactlyIf_of_refused (hstep.trans (transact_tick_of_negative s' hneg e)) (by simp) hneg
  | press | release | sound | fb => exact refusedExactlyIf_of_next hstep id

end Sys2Proof.Machine
end

section
/-! The invariant of rule R38: what an instruction can do to the list of cells, to `pc` and to the stack, said once
for all 34, and from it that every step keeps the invariant. -/

namespace Sys2Proof.Machine

open Sys2Proof.Claims

/-! ## Memory, `pc` and the stack after an instruction -/

section
variable {i : Instr} {s t u : State}

theorem mem_eq_of_exec (ht : exec i s = .next t) (hu : exec i s = .next u) (hmem : u.mem = s.mem) :
    t.mem = s.mem := by
  rw [Host.Outcome.next.inj (ht.symm.trans hu), hmem]

theorem mem_eq_of_exec_skipWhen {c : Bool} (ht : exec i s = .next t) (hskip : exec i s = skipWhen c s) :
    t.mem = s.mem :=
  mem_eq_of_exec ht (hskip.trans (skipWhen_eq_setPc c s)) rfl

/-- An instruction stores a run of bytes inside memory, or leaves the list of cells as it is. -/
theorem exec_mem (ht : exec i s = .next t) :
    t.mem = s.mem ∨ ∃ a bs, a + bs.length ≤ memSize ∧ t.mem = s.mem.putAll s.cfg a bs := by
  cases i with
  | ldBVx x =>
    by_cases hin : s.I.toNat + 2 ≤ 0xFFF
    · obtain rfl := Host.Outcome.next.inj (ht.symm.trans (exec_ldBVx_of_inside hin))
      exact Or.inr ⟨_, _, Nat.succ_le_succ hin, rfl⟩
    · cases ht.symm.trans (exec_ldBVx_of_outside (not_le.1 hin))
  | ldMemVx x =>
    by_cases hin : s.I.toNat + x.val ≤ 0xFFF
    · obtain rfl := Host.Outcome.next.inj (ht.symm.trans (exec_ldMemVx_of_inside hin))
      exact Or.inr ⟨_, _, by rw [s.length_regsUpTo]; exact Nat.succ_le_succ hin, rfl⟩
    · cases ht.symm.trans (exec_ldMemVx_of_outside (not_le.1 hin))
  | ldVxMem x =>
    by_cases hin : s.I.toNat + x.val ≤ 0xFFF
    · obtain ⟨u, hu, hframe, -⟩ := exec_ldVxMem_of_inside hin
      exact Or.inl (mem_eq_of_exec ht hu (by rw [State.setI_mem, hframe]))
    · cases ht.symm.trans (exec_ldVxMem_of_outside (not_le.1 hin))
  | drwVxVyNibble x y n =>
    by_cases hin : SpriteInMemory s (startY s y) n.toNat
    · obtain ⟨c, hc, -⟩ := exec_drwVxVyNibble_of_inside (x := x) hin
      exact Or.inl (mem_eq_of_exec ht hc rfl)
    · cases ht.symm.trans (exec_drwVxVyNibble_of_outside hin)
  | callAddr nnn =>
    obtain ⟨-, rfl⟩ := exec_callAddr_eq_next ht
    exact Or.inl rfl
  | ret =>
    cases hs : s.stack with
    | cons a rest => exact Or.inl (mem_eq_of_exec ht (exec_ret_of_cons hs) rfl)
    | nil => exact Or.inl (mem_eq_of_exec ht (exec_ret_of_nil hs) rfl)
  | seVxByte | sneVxByte | seVxVy | sneVxVy | skpVx | sknpVx => exact Or.inl (mem_eq_of_exec_skipWhen ht rfl)
  | shrVxVy x y => exact Or.inl (mem_eq_of_exec ht (exec_shrVxVy x y s) rfl)
  | shlVxVy x y => exact Or.inl (mem_eq_of_exec ht (exec_shlVxVy x y s) rfl)
  | ldVxK x =>
    cases hk : s.tickIn.key with
    | some k => exact Or.inl (mem_eq_of_exec ht (exec_ldVxK_of_key hk) rfl)
    | none => exact Or.inl (mem_eq_of_exec ht (exec_ldVxK_of_no_key hk) rfl)
  | addIVx x =>
    by_cases h : s.cfg.indexOverflowFlag = true ∧ 0x0FFF < (s.I + zextByte (s.v x)).toNat
    · exact Or.inl (mem_eq_of_exec ht (exec_addIVx_of_overflow h) rfl)
    · exact Or.inl (mem_eq_of_exec ht (exec_addIVx_of_no_overflow h) rfl)
  | _ => exact Or.inl (mem_eq_of_exec ht rfl rfl)

/-- An instruction leaves the stack, pushes `pc`, or pops an entry. -/
theorem exec_stack (ht : exec i s = .next t) :
    t.stack = s.stack ∨ (s.sp ≠ 1024 ∧ t.stack = s.pc :: s.stack) ∨ ∃ a, s.stack = a :: t.stack := by
  cases i with
  | callAddr nnn =>
    obtain ⟨hroom, rfl⟩ := exec_callAddr_eq_next ht
    exact Or.inr (Or.inl ⟨hroom, rfl⟩)
  | ret =>
    cases hs : s.stack with
    | cons a rest =>
      obtain rfl := Host.Outcome.next.inj (ht.symm.trans (exec_ret_of_cons hs))
      exact Or.inr (Or.inr ⟨a, rfl⟩)
    | nil =>
      obtain rfl := Host.Outcome.next.inj (ht.symm.trans (exec_ret_of_nil hs))
      exact Or.inl hs
  | _ => exact Or.inl ((instructionsWriteOnlyTheirState _ s t ht).1 .stack (by simp [writesParts]))

theorem toNat_add_two {a : Word} (h : a.toNat + 2 < 65536) : (a + 2).toNat = a.toNat + 2 :=
  BitVec.toNat_add_of_lt h

/-- Where `pc` is one of the addresses after a fetch and the stack holds only such, an instruction leaves `pc` at
0x10FE or below (rule R25): a skip adds 2, a jump writes 12 bits or their sum with a byte, a return pops an entry,
and the key wait goes back by 2. -/
theorem exec_pcBound (ht : exec i s = .next t) (hpc : 2 ≤ s.pc.toNat ∧ s.pc.toNat ≤ 0x1000)
    (hstack : ∀ a ∈ s.stack, a.toNat ≤ 0x1000) : t.pc.toNat ≤ 0x10FE := by
  have hsame (h : t.pc = s.pc) : t.pc.toNat ≤ 0x10FE := by
    rw [h]
    omega
  have hskip {c : Bool} (h : exec i s = skipWhen c s) : t.pc.toNat ≤ 0x10FE := by
    obtain rfl := Host.Outcome.next.inj (ht.symm.trans (h.trans (skipWhen_eq_setPc c s)))
    rw [State.setPc_pc]
    split
    · rw [toNat_add_two (by omega)]
      omega
    · omega
  cases i with
  | jpAddr nnn =>
    obtain rfl := Host.Outcome.next.inj (ht.symm.trans (exec_jpAddr nnn s))
    have hnnn := nnn.isLt
    rw [State.setPc_pc, zextAddr_toNat]
    omega
  | callAddr nnn =>
    obtain ⟨-, rfl⟩ := exec_callAddr_eq_next ht
    have hnnn := nnn.isLt
    rw [State.setPc_pc, zextAddr_toNat]
    omega
  | jpV0Addr nnn =>
    obtain rfl := Host.Outcome.next.inj (ht.symm.trans (exec_jpV0Addr nnn s))
    have hnnn := nnn.isLt
    have hv0 := (s.v 0).isLt
    rw [State.setPc_pc, zextAddr_add_zextByte_toNat]
    omega
  | ret =>
    cases hs : s.stack with
    | cons a rest =>
      obtain rfl := Host.Outcome.next.inj (ht.symm.trans (exec_ret_of_cons hs))
      have ha := hstack a (hs ▸ List.mem_cons_self)
      rw [State.setPc_pc]
      omega
    | nil =>
      obtain rfl := Host.Outcome.next.inj (ht.symm.trans (exec_ret_of_nil hs))
      exact hsame rfl
  | ldVxK x =>
    cases hk : s.tickIn.key with
    | some k =>
      obtain rfl := Host.Outcome.next.inj (ht.symm.trans (exec_ldVxK_of_key hk))
      exact hsame rfl
    | none =>
      obtain rfl := Host.Outcome.next.inj (ht.symm.trans (exec_ldVxK_of_no_key hk))
      have hopc : s.opc.toNat = s.pc.toNat - 2 := BitVec.toNat_sub_of_le hpc.1
      rw [State.setPc_pc, hopc]
      omega
  | seVxByte | sneVxByte | seVxVy | sneVxVy | skpVx | sknpVx => exact hskip rfl
  | _ => exact hsame ((instructionsWriteOnlyTheirState _ s t ht).1 .pc (by simp [writesParts]))

end

/-! ## The invariant within a TICK -/

/-- What holds of memory, `pc` and the stack when an instruction is executed: `pc` is the address after a fetch
inside memory. -/
structure State.ExecInv (s : State) : Prop where
  memory : s.mem.wf s.cfg = true
  pcBounds : 2 ≤ s.pc.toNat ∧ s.pc.toNat ≤ 0x1000
  stackDepth : s.sp ≤ stackSlots
  stackEntries : ∀ a ∈ s.stack, 2 ≤ a.toNat ∧ a.toNat ≤ 0x1000

section
variable {i : Instr} {s t : State} (hs : s.ExecInv) (ht : exec i s = .next t)
include hs ht

theorem exec_keeps_memory : t.mem.wf t.cfg = true := by
  have hcfg : t.cfg = s.cfg :=
    ((instructionsWriteOnlyTheirState i s t ht).1.mono (writesParts_subset_cycleParts i)) .cfg (by decide)
  rw [hcfg]
  obtain h | ⟨a, bs, hfits, h⟩ := exec_mem ht
  · rw [h, hs.memory]
  · rw [h]
    exact Memory.wf_putAll s.cfg hs.memory hfits

theorem exec_keeps_stackDepth : t.sp ≤ stackSlots := by
  have hdepth := hs.stackDepth
  unfold stackSlots at hdepth ⊢
  obtain h | ⟨hroom, h⟩ | ⟨a, h⟩ := exec_stack ht
  · rw [State.sp, h]
    exact hdepth
  · rw [State.sp_of_cons h]
    omega
  · rw [State.sp_of_cons h] at hdepth
    omega

theorem exec_keeps_stackEntries : ∀ a ∈ t.stack, 2 ≤ a.toNat ∧ a.toNat ≤ 0x1000 := by
  obtain h | ⟨-, h⟩ | ⟨b, h⟩ := exec_stack ht
  · rw [h]
    exact hs.stackEntries
  · rw [h]
    exact List.forall_mem_cons.2 ⟨hs.pcBounds, hs.stackEntries⟩
  · exact (List.forall_mem_cons.1 (h ▸ hs.stackEntries)).2

end

/-- A dispatch from such a state leaves memory, `pc` and the stack within the invariant. -/
theorem dispatch_keeps {w : Word} {s t : State} (hs : s.ExecInv) (ht : dispatch w s = .next t) :
    t.mem.wf t.cfg = true ∧ t.pc.toNat ≤ 0x10FE ∧ t.sp ≤ stackSlots ∧
      ∀ a ∈ t.stack, 2 ≤ a.toNat ∧ a.toNat ≤ 0x1000 := by
  obtain ⟨i, -, hexec⟩ | ⟨-, rfl⟩ := dispatch_eq_next ht
  · exact ⟨exec_keeps_memory hs hexec, exec_pcBound hexec hs.pcBounds fun a ha => (hs.stackEntries a ha).2,
      exec_keeps_stackDepth hs hexec, exec_keeps_stackEntries hs hexec⟩
  · exact ⟨hs.memory, hs.pcBounds.2.trans (by decide), hs.stackDepth, hs.stackEntries⟩

/-! ## The Timers -/

theorem State.tickT60_bounds {s : State} {d : Duration} (hacc : 0 ≤ s.t60Acc) (hd : 0 ≤ d) :
    0 ≤ (s.tickT60 d).t60Acc ∧ (s.tickT60 d).t60Acc < 1 / 60 := by
  obtain h | h := le_or_gt (1 / 60) (s.t60Acc + d)
  · rw [State.tickT60_of_fire h]
    exact ⟨le_refl 0, by norm_num [State.decrementTimers]⟩
  · rw [State.tickT60_of_no_fire h]
    exact ⟨add_nonneg hacc hd, h⟩

theorem State.mem_afterTimers (s : State) (d : Duration) (e : Byte) (acc : Duration) :
    (s.afterTimers d e acc).mem = s.mem := by
  rw [State.afterTimers, State.setTcpuAcc_mem, State.tickT60_frame]
  rfl

theorem mem_of_takeTransaction {s s' : State} {a : Transaction} (h : s.takeTransaction = (a, s')) :
    s'.mem = s.mem := by
  rw [eq_setSchedule_of_takeTransaction h, State.setSchedule_mem]

/-! ## The invariant after a transaction -/

/-- The parts the invariant does not speak of, and memory. -/
def unboundParts : List Part := [.mem, .V, .I, .dt, .st, .fb, .keys, .latch, .draws, .schedule, .response]

theorem State.Inv.of_keepsBut {s t : State} (hs : s.Inv) (hkeeps : KeepsBut unboundParts s t)
    (hmem : t.mem.wf s.cfg = true) : t.Inv := by
  have hcfg : t.cfg = s.cfg := hkeeps .cfg (by decide)
  have hstack : t.stack = s.stack := hkeeps .stack (by decide)
  have htcpu : t.tcpuAcc = s.tcpuAcc := hkeeps .tcpuAcc (by decide)
  have hpc : t.pc = s.pc := hkeeps .pc (by decide)
  have ht60 : t.t60Acc = s.t60Acc := hkeeps .t60Acc (by decide)
  have hidle : t.idleDelta = s.idleDelta := hkeeps .idleDelta (by decide)
  exact
    { memory := hcfg ▸ hmem
      config := hcfg ▸ hs.config
      pcBound := hpc ▸ hs.pcBound
      stackDepth := by rw [State.sp, hstack]; exact hs.stackDepth
      stackEntries := hstack ▸ hs.stackEntries
      t60 := ht60 ▸ hs.t60
      tcpu := by rw [htcpu, hcfg]; exact hs.tcpu
      noTransients := Eq.trans (hkeeps .tickIn (by decide)) hs.noTransients
      idleDuty := hidle ▸ hs.idleDuty }

theorem cpuPeriod_pos {c : Configuration} (h : c.legal = true) : 0 < 1 / (c.ips : Rat) := by
  obtain ⟨hips, -, -⟩ := (legal_iff c).1 h
  exact one_div_pos.2 (Nat.cast_pos.2 hips)

theorem inv_resetWith {c : Configuration} (h : c.legal = true) : (State.resetWith c).Inv where
  memory := rfl
  config := h
  pcBound := ((legal_iff c).1 h).2.2.trans (by decide)
  stackDepth := Nat.zero_le _
  stackEntries := fun _ ha => absurd ha List.not_mem_nil
  t60 := ⟨le_refl 0, by norm_num [State.resetWith]⟩
  tcpu := ⟨le_refl 0, cpuPeriod_pos h⟩
  noTransients := rfl
  idleDuty := (deltaLegal_iff _).2 ((cpuPeriod_pos h).le.trans_eq (cpuPeriod_eq c).symm)

/-- Settles O52: the reset state lists no memory and has an empty stack and empty accumulators; the rest is the
legality of the Configuration. -/
theorem invariantHoldsAfterReset : Obligations.InvariantHoldsAfterReset :=
  ⟨fun _ => inv_resetWith, inv_resetWith (by decide)⟩

theorem inv_afterReset {s : State} {c : Configuration} (h : c.legal = true)
    (hidle : deltaLegal s.idleDelta = true) : (s.afterReset c).Inv :=
  { inv_resetWith h with idleDuty := hidle }

section
variable {s s' t : State} {d : Duration} {e : Byte}

theorem execInv_executeState (hs : s.Inv) (h : NextIsTick s s' d e) (hin : s.pc.toNat + 1 < memSize) :
    (executeState s' d e).ExecInv := by
  have hkeeps := keepsBut_executeState h
  have hcfg : (executeState s' d e).cfg = s.cfg := hkeeps .cfg (by decide)
  have hstack : (executeState s' d e).stack = s.stack := hkeeps .stack (by decide)
  have hmem : (executeState s' d e).mem = s.mem := by
    rw [executeState_eq, State.setPc_mem, State.mem_afterTimers, mem_of_takeTransaction h.1]
  have hpc : (executeState s' d e).pc.toNat = s.pc.toNat + 2 := by
    unfold memSize at hin
    rw [executeState_pc h, toNat_add_two (by omega)]
  exact
    { memory := by rw [hmem, hcfg]; exact hs.memory
      pcBounds := by unfold memSize at hin; omega
      stackDepth := by rw [State.sp, hstack]; exact hs.stackDepth
      stackEntries := hstack ▸ hs.stackEntries }

theorem t60_afterTimers (hs : s.Inv) (h : NextIsTick s s' d e) (acc : Duration) :
    0 ≤ (s'.afterTimers d e acc).t60Acc ∧ (s'.afterTimers d e acc).t60Acc < 1 / 60 := by
  have hacc : s'.t60Acc = s.t60Acc := keepsBut_of_nextIsTick h .t60Acc (by decide)
  exact State.tickT60_bounds (s := s'.captureLatch e) (hacc ▸ hs.t60.1) h.2

/-- A TICK keeps the invariant: the accumulators stay below their periods, and its instruction starts with `pc`
after a fetch inside memory. -/
theorem inv_of_tick (hs : s.Inv) (h : NextIsTick s s' d e) (ht : step s = .next t) : t.Inv := by
  have hkeeps := keepsBut_of_tick h ht
  have hcfg : t.cfg = s.cfg := hkeeps .cfg (by decide)
  have hidle : t.idleDelta = s.idleDelta := hkeeps .idleDelta (by decide)
  obtain ⟨hfire, rfl⟩ | ⟨-, hin, u, hu, rfl⟩ := step_tick_eq_next h ht
  · have hbefore := keepsBut_afterTimers_of_nextIsTick h (s.tcpuAcc + d)
    have hpc : (s'.afterTimers d e (s.tcpuAcc + d)).pc = s.pc := hbefore .pc (by decide)
    have hstack : (s'.afterTimers d e (s.tcpuAcc + d)).stack = s.stack := hbefore .stack (by decide)
    exact
      { memory := by
          rw [hcfg, State.setTickIn_mem, State.mem_afterTimers, mem_of_takeTransaction h.1]
          exact hs.memory
        config := hcfg ▸ hs.config
        pcBound := hpc ▸ hs.pcBound
        stackDepth := by rw [State.sp, State.setTickIn_stack, hstack]; exact hs.stackDepth
        stackEntries := hstack ▸ hs.stackEntries
        t60 := t60_afterTimers hs h (s.tcpuAcc + d)
        tcpu := ⟨add_nonneg hs.tcpu.1 h.2, by rw [hcfg]; exact not_le.1 hfire⟩
        noTransients := rfl
        idleDuty := hidle ▸ hs.idleDuty }
  · obtain ⟨hmem, hpc, hdepth, hentries⟩ := dispatch_keeps (execInv_executeState hs h hin) hu
    have hcycle := keepsBut_of_dispatch hu
    have ht60 : u.t60Acc = (s'.afterTimers d e 0).t60Acc := by
      rw [show u.t60Acc = (executeState s' d e).t60Acc from hcycle .t60Acc (by decide), executeState_eq]
      rfl
    have htcpu : u.tcpuAcc = 0 := by
      rw [show u.tcpuAcc = (executeState s' d e).tcpuAcc from hcycle .tcpuAcc (by decide), executeState_eq]
      rfl
    exact
      { memory := hmem
        config := hcfg ▸ hs.config
        pcBound := hpc
        stackDepth := hdepth
        stackEntries := hentries
        t60 := by rw [State.setTickIn_t60Acc, ht60]; exact t60_afterTimers hs h 0
        tcpu := by
          rw [hcfg, State.setTickIn_tcpuAcc, htcpu]
          exact ⟨le_refl 0, cpuPeriod_pos hs.config⟩
        noTransients := rfl
        idleDuty := hidle ▸ hs.idleDuty }

end

/-- Settles O53, by cases on the transaction: RESET establishes the invariant, a TICK keeps it, and the others
write only parts it does not speak of, LOAD a run of bytes inside memory. -/
theorem stepKeepsTheInvariant : Obligations.StepKeepsTheInvariant := by
  intro s t hs ht
  obtain ⟨a, s', h⟩ : ∃ a s', s.takeTransaction = (a, s') := ⟨_, _, rfl⟩
  have hkeeps := keepsBut_of_step h ht
  have htransact := (step_of_takeTransaction h).symm.trans ht
  have hmem := mem_of_takeTransaction h
  have hbefore := keepsBut_of_takeTransaction h
  cases a with
  | tick d e => exact inv_of_tick hs (nextIsTick_of_step_eq_next h ht) ht
  | reset c =>
    obtain ⟨hlegal, rfl⟩ := transact_reset_eq_next s' htransact
    have hidle : s'.idleDelta = s.idleDelta := hbefore .idleDelta (by decide)
    exact inv_afterReset hlegal (hidle ▸ hs.idleDuty)
  | load bytes =>
    obtain ⟨hfits, rfl⟩ := transact_load_eq_next s' htransact
    have hcfg : s'.cfg = s.cfg := hbefore .cfg (by decide)
    have hwf : s'.mem.wf s'.cfg = true := by rw [hmem, hcfg]; exact hs.memory
    exact hs.of_keepsBut (hkeeps.mono (by simp [changedParts, unboundParts]))
      (hcfg ▸ Memory.wf_putAll s'.cfg hwf hfits)
  | press | release | sound | fb =>
    obtain rfl := Host.Outcome.next.inj htransact
    exact hs.of_keepsBut (hkeeps.mono (by simp [changedParts, unboundParts])) (hmem.symm ▸ hs.memory)

end Sys2Proof.Machine
end

section
/-! The quiescent states of rule R262: a jump to itself, executed or not, leaves `pc` where it is. -/

namespace Sys2Proof.Machine

open Sys2Proof.Claims

theorem encodedAtPc_of_quiescentAt {s : State} {a : BitVec 12} (h : s.QuiescentAt a) :
    EncodedAtPc s (.jpAddr a) := by
  obtain ⟨hpc, hword⟩ := h
  obtain ⟨hin, hw⟩ := (State.memReadWord_eq_some s).1 hword
  rw [EncodedAtPc, hpc, zextAddr_toNat, ← hw]
  exact ⟨Nat.le_of_lt_succ hin, decode_encode _⟩

theorem quiescentAt_of_keepsBut {s t : State} {a : BitVec 12} (h : s.QuiescentAt a) {ps : List Part}
    (hkeeps : KeepsBut ps s t) (hpc : .pc ∉ ps) (hmem : .mem ∉ ps) : t.QuiescentAt a := by
  have hbyte : ∀ x, t.byteAt x = s.byteAt x := hkeeps .mem hmem
  refine ⟨Eq.trans (hkeeps .pc hpc) h.1, (State.memReadWord_eq_some t).2 ?_⟩
  rw [hbyte, hbyte]
  exact (State.memReadWord_eq_some s).1 h.2

/-- Settles O54: where the CPU Timer does not fire, no part of the loop changes; where it does, the jump writes
the `pc` there was. -/
theorem quiescentStatesStayQuiescent : Obligations.QuiescentStatesStayQuiescent := by
  intro s s' a d e hquiet h
  by_cases hfire : CpuFires s d
  · have hstep := stepRunsTheDecodedInstruction s s' d e _ h hfire (encodedAtPc_of_quiescentAt hquiet)
    set t := ((executeState s' d e).setPc (zextAddr a)).setTickIn .idle
    have hkeeps : KeepsBut [.latch, .t60Acc, .tcpuAcc, .dt, .st, .schedule, .response, .tickIn] s t :=
      KeepsBut.erase (p := .pc) (((keepsBut_executeState h).trans
        ((keepsBut_setPc _ _).trans (keepsBut_setTickIn _ _))).mono (by decide)) hquiet.1.symm
    have hschedule : (executeState s' d e).schedule = s'.schedule := by
      rw [executeState_eq]
      exact keepsBut_afterTimers s' d e 0 .schedule (by decide)
    exact ⟨t, hstep, quiescentAt_of_keepsBut hquiet hkeeps (by decide) (by decide), executeState_response,
      hschedule, hkeeps⟩
  · obtain ⟨t, ht, -, -, hresponse, -, -, -, hschedule, -, hkeeps⟩ :=
      tickWithoutAFireExecutesNothing s s' d e h hfire
    exact ⟨t, ht, quiescentAt_of_keepsBut hquiet hkeeps (by decide) (by decide), hresponse, hschedule, hkeeps⟩

theorem safeRun_succ_of_next {k : Nat} {s t : State} (h : step s = .next t) (ht : SafeRun k t) :
    SafeRun (k + 1) s := by
  simpa only [SafeRun, h] using ht

theorem nextIsTick_idle {s : State} (hsched : s.schedule = []) (hidle : deltaLegal s.idleDelta = true) :
    NextIsTick s s s.idleDelta (Config.freeEntropy s.draws) := by
  refine ⟨?_, (deltaLegal_iff _).1 hidle⟩
  simp only [State.takeTransaction, hsched, State.idleTick]

/-- Settles O55, by induction on the length of the run: an idle TICK leaves the state quiescent and the schedule
empty. -/
theorem quiescentStatesRunSafelyForEver : Obligations.QuiescentStatesRunSafelyForEver := by
  intro s a hquiet hsched hidle k
  induction k generalizing s with
  | zero => exact trivial
  | succ k ih =>
    obtain ⟨t, ht, hquiet', -, hsched', hkeeps⟩ :=
      quiescentStatesStayQuiescent s s a _ _ hquiet (nextIsTick_idle hsched hidle)
    have hdelta : t.idleDelta = s.idleDelta := hkeeps .idleDelta (by decide)
    exact safeRun_succ_of_next ht (ih t hquiet' (hsched'.trans hsched) (hdelta ▸ hidle))

end Sys2Proof.Machine
end
